-- ==== Sys2Proof/Word.lean ====
section
/-! DEFINITION. The word types of the pikos interrupt core (spec/00_scope.md R8, R10; spec/20_memory.md R37). -/

namespace Sys2Proof

/-- One byte of memory, and one byte on an I/O port (R8 `PORT_DATA_WIDTH`). -/
abbrev Byte := BitVec 8

/-- A 16-bit number: the gate's selector and offset halves, `IDTR.limit` (R20, R64). -/
abbrev Half := BitVec 16

/-- A 32-bit number: a linear address, a handler id, `int_no` (R8 `ADDR_WIDTH`, R27). -/
abbrev Word := BitVec 32

/-- A 64-bit number: a command word (R53) or a gate descriptor (R64). -/
abbrev Word64 := BitVec 64

/-- An I/O port number (R8 `PORT_ADDR_WIDTH`). -/
abbrev PortNum := BitVec 16

/-- A CPU vector: an IDT slot number (R14, R70). -/
abbrev VectorNo := BitVec 8

/-- A request line, also the request index `k` (R14, R87). -/
abbrev Line := BitVec 4

/-- A string handed to the Screen: its characters in order (R11 `ScreenPrint`, R26). -/
abbrev Text := List Char

end Sys2Proof
end

