-- ==== Sys2Proof/Config.lean ====
section
/-! DEFINITION. What an implementation fixes: the parameters of spec/00_scope.md R8 and R9, and the free values. -/

namespace Sys2Proof

/-- What happens after an exception report (R9, R86): `goOn` is the source's `Continue`. -/
inductive ExcPolicy where
  | goOn
  | halt
  deriving DecidableEq, Repr

/-- What the map CLIENT says of one handler id (R9, R105). -/
inductive ClientKind where
  /-- the timer callback (R115) -/
  | timer
  /-- the keyboard callback (R118) -/
  | keyboard
  /-- any other client, with the ports of its own device (R106, R111) -/
  | other (ports : List PortNum)
  deriving DecidableEq, Repr

/-- The parameters the source leaves open (R9). No step changes them (R35). -/
structure Params where
  /-- IDT_BASE, linear address of gate 0 -/
  idtBase : Word
  /-- CODE_SELECTOR, written into every gate -/
  codeSelector : Half
  /-- GATE_FLAGS, the flags byte of every gate; 0x8E -/
  gateFlags : Byte
  /-- TRAMP as pairs (address, vector number pushed there); the first pair of an address decides -/
  tramps : List (Word × VectorNo)
  /-- EXC_MSG[0..20] -/
  excMsg : Vector Text 21
  /-- EXC_POLICY -/
  excPolicy : ExcPolicy
  /-- TIMER_H -/
  timerH : Word
  /-- KBD_H -/
  kbdH : Word
  /-- CLIENT on every other handler id, with the ports of that client's device -/
  others : List (Word × List PortNum)
  /-- PIT_CMD; 0x36 -/
  pitCmd : Byte
  /-- SC_MAX -/
  scMax : Byte
  deriving DecidableEq, Repr

namespace Config

/-- IDT_ENTRIES (R8). -/
def idtEntries : Nat := 256

/-- GATE_SIZE in bytes (R8). -/
def gateSize : Nat := 8

/-- IDT_LIMIT (R8, R77). -/
def idtLimit : Half := BitVec.ofNat 16 (idtEntries * gateSize - 1)

/-- BASE_CLOCK of the timer client, in hertz (R8). -/
def baseClock : Nat := 1193180

/-- Command port of the primary PIC (R38). -/
def picPCmd : PortNum := 0x20#16

/-- Data port of the primary PIC (R38). -/
def picPData : PortNum := 0x21#16

/-- Command port of the secondary PIC (R38). -/
def picSCmd : PortNum := 0xA0#16

/-- Data port of the secondary PIC (R38). -/
def picSData : PortNum := 0xA1#16

/-- PIT channel 0 data port (R38). -/
def pitData : PortNum := 0x40#16

/-- PIT command port (R38). -/
def pitCmdPort : PortNum := 0x43#16

/-- Keyboard data port (R38). -/
def kbdData : PortNum := 0x60#16

/-- FREE VALUE. The text of named message `n` (EXC_MSG[0..20]) in `State.reset`: the source does not give
it (N3, D18; assumption log 2). -/
opaque excMsgText : Nat → Text

/-- FREE VALUE. SC_MAX in `State.reset`: the source does not give it (N7, D39; assumption log 2). -/
opaque scMaxValue : Byte

/-- FREE VALUE. The byte the `n`-th port read returns when no device byte is queued (R11 `PortRead`;
assumption log 13). -/
opaque freeByte : Nat → Byte

/-- The common configuration of the spec's worked examples, with the two values it leaves symbolic as
arguments (95_test_vectors; R9). -/
def common (msgs : Vector Text 21) (scMax : Byte) : Params where
  idtBase := 0x00105000#32
  codeSelector := 0x0008#16
  gateFlags := 0x8E#8
  tramps := (List.range 48).map fun w => (BitVec.ofNat 32 (0x00101000 + 16 * w), BitVec.ofNat 8 w)
  excMsg := msgs
  excPolicy := .goOn
  timerH := 1#32
  kbdH := 2#32
  others := []
  pitCmd := 0x36#8
  scMax := scMax

/-- The configuration of `State.reset`: the common one, its open values free (assumption logs 1 and 2). -/
def atReset : Params := common (Vector.ofFn fun i => excMsgText i.val) scMaxValue

end Config

end Sys2Proof
end

