-- ==== Sys2Proof/Syntax.lean ====
section
/-! DEFINITION. The operations of the block, one constructor per row of spec/opcode_table.json (spec/30_encoding.md R55, R62),
and the two command interfaces (R54). -/

namespace Sys2Proof

/-- The two command interfaces of the block (R54). -/
inductive CmdPort where
  /-- used by the host, and by a client during an invocation; accepts op 0x01 to 0x05 -/
  | host
  /-- used only by a trampoline; accepts op 0x10 -/
  | tramp
  deriving DecidableEq, Repr

/-- One operation with its operands (R55). A DISPATCH row keeps the whole 32-bit `int_no` (R61);
`Instr.wf` says which numbers each row decodes. -/
inductive Instr where
  /-- SETGATE (R56, R73) -/
  | setgate (vector : Byte) (addr : Word)
  /-- LOADIDT (R57, R76) -/
  | loadidt
  /-- PICREMAP (R58, R94) -/
  | picremap
  /-- REGISTER (R59, R101) -/
  | register (index : Byte) (handlerId : Word)
  /-- ENABLE (R60, R107) -/
  | enable
  /-- DISPATCH.EXC: `int_no` 0 to 31 (R62, R84) -/
  | dispatchExc (intNo : Word)
  /-- DISPATCH.REQ on a primary line: `int_no` 32 to 39 (R62, R88) -/
  | dispatchReqPrimary (intNo : Word)
  /-- DISPATCH.REQ on a secondary line: `int_no` 40 to 47 (R62, R88) -/
  | dispatchReqSecondary (intNo : Word)
  /-- DISPATCH.UNROUTED: `int_no` 48 and above (R62, R91) -/
  | dispatchUnrouted (intNo : Word)
  deriving DecidableEq, Repr

end Sys2Proof
end

