-- ==== Sys2Proof/WellFormed.lean ====
section
/-! DEFINITION. Which operand values each operation may carry (spec/30_encoding.md R56, R59, R62). -/

namespace Sys2Proof

/-- The numbers each DISPATCH row stands for (R62). The other operations have no operand value that
does not encode: every `vector` and every `index` of 8 bits does (R56, R59). -/
def Instr.wf : Instr → Bool
  | .setgate _ _ => true
  | .loadidt => true
  | .picremap => true
  | .register _ _ => true
  | .enable => true
  | .dispatchExc n => decide (n.toNat ≤ 31)
  | .dispatchReqPrimary n => decide (32 ≤ n.toNat ∧ n.toNat ≤ 39)
  | .dispatchReqSecondary n => decide (40 ≤ n.toNat ∧ n.toNat ≤ 47)
  | .dispatchUnrouted n => decide (48 ≤ n.toNat)

end Sys2Proof
end

