-- ==== Sys2Proof/Decode.lean ====
section
/-! DEFINITION. The decoder of command words, total on every 64-bit word (spec/30_encoding.md R53 to R63), and after it the
encoder written from the same table. -/

namespace Sys2Proof

/-- Field `op`, bits 63:56 (R53). -/
def cwOp (cw : Word64) : Byte := cw.extractLsb' 56 8

/-- Field `a8`, bits 55:48 (R53). -/
def cwA8 (cw : Word64) : Byte := cw.extractLsb' 48 8

/-- Field `rsv`, bits 47:32, which must be 0 (R53). -/
def cwRsv (cw : Word64) : Half := cw.extractLsb' 32 16

/-- Field `a32`, bits 31:0 (R53). -/
def cwA32 (cw : Word64) : Word := cw.extractLsb' 0 32

/-- The host command port's part of the decode procedure (R63). `none` is ILLEGAL. -/
def decodeHost (op a8 : Byte) (rsv : Half) (a32 : Word) : Option Instr :=
  if op = 0x01#8 ∧ rsv = 0#16 then some (.setgate a8 a32)
  else if op = 0x02#8 ∧ a8 = 0#8 ∧ rsv = 0#16 ∧ a32 = 0#32 then some .loadidt
  else if op = 0x03#8 ∧ a8 = 0#8 ∧ rsv = 0#16 ∧ a32 = 0#32 then some .picremap
  else if op = 0x04#8 ∧ rsv = 0#16 then some (.register a8 a32)
  else if op = 0x05#8 ∧ a8 = 0#8 ∧ rsv = 0#16 ∧ a32 = 0#32 then some .enable
  else none

/-- The demultiplexer rows of the decode procedure, tried in order (R62, R63): bits 31:5 for the
exception path, bits 31:3 for the two groups of request lines. -/
def decodeIntNo (n : Word) : Instr :=
  if n.extractLsb' 5 27 = 0#27 then .dispatchExc n
  else if n.extractLsb' 3 29 = 4#29 then .dispatchReqPrimary n
  else if n.extractLsb' 3 29 = 5#29 then .dispatchReqSecondary n
  else .dispatchUnrouted n

/-- The trampoline dispatch port's part of the decode procedure (R63). -/
def decodeTramp (op a8 : Byte) (rsv : Half) (a32 : Word) : Option Instr :=
  if op = 0x10#8 ∧ a8 = 0#8 ∧ rsv = 0#16 then some (decodeIntNo a32) else none

/-- The decode procedure on one command word at one port (R63). `none` is ILLEGAL (R66). -/
def decode (port : CmdPort) (cw : Word64) : Option Instr :=
  match port with
  | .host => decodeHost (cwOp cw) (cwA8 cw) (cwRsv cw) (cwA32 cw)
  | .tramp => decodeTramp (cwOp cw) (cwA8 cw) (cwRsv cw) (cwA32 cw)

/-- The port whose words carry this op: the trampoline port for 0x10, the host port for every other (R55). -/
def portOfWord (cw : Word64) : CmdPort := if cwOp cw = 0x10#8 then .tramp else .host

/-- A command word from its four fields (R53). -/
def mkWord (op a8 : Byte) (rsv : Half) (a32 : Word) : Word64 := op ++ a8 ++ rsv ++ a32

/-- The command word of an operation (R56 to R61). -/
def encode : Instr → Word64
  | .setgate v a => mkWord 0x01#8 v 0#16 a
  | .loadidt => mkWord 0x02#8 0#8 0#16 0#32
  | .picremap => mkWord 0x03#8 0#8 0#16 0#32
  | .register i h => mkWord 0x04#8 i 0#16 h
  | .enable => mkWord 0x05#8 0#8 0#16 0#32
  | .dispatchExc n => mkWord 0x10#8 0#8 0#16 n
  | .dispatchReqPrimary n => mkWord 0x10#8 0#8 0#16 n
  | .dispatchReqSecondary n => mkWord 0x10#8 0#8 0#16 n
  | .dispatchUnrouted n => mkWord 0x10#8 0#8 0#16 n

/-- The interface each operation is issued on (R54, R55). -/
def Instr.port : Instr → CmdPort
  | .setgate _ _ => .host
  | .loadidt => .host
  | .picremap => .host
  | .register _ _ => .host
  | .enable => .host
  | .dispatchExc _ => .tramp
  | .dispatchReqPrimary _ => .tramp
  | .dispatchReqSecondary _ => .tramp
  | .dispatchUnrouted _ => .tramp

/-- The operation the decoder reads from a word numbered as the opcode table numbers it. A command is
one 64-bit word (R70), so the number is the word, and the op says which port it comes to (R54). -/
def decodeTableWord (nbits w : Nat) : Option Instr :=
  if nbits ≤ 64 ∧ w < 2 ^ 64 then
    decode (portOfWord (BitVec.ofNat 64 w)) (BitVec.ofNat 64 w)
  else none

end Sys2Proof
end

