-- ==== Sys2Proof/Machine/State.lean ====
section
/-! DEFINITION. The state of the machine as plain data, the reasons a step can stop, and the state after reset
(spec/10_state.md R15 to R36; spec/60_exceptions.md R123, R124, R143, R150). -/

namespace Sys2Proof.Machine

/-- The fault codes of the block, in the order of their numbers 0x01 to 0x12 (R124). -/
inductive FaultCode where
  | illegalCommand
  | lateGateWrite
  | gateBeforeRemap
  | doubleLoad
  | doubleRemap
  | lateRemap
  | badIndex
  | lateRegister
  | enableBeforeLoad
  | enableBeforeRemap
  | reenableInDispatch
  | unroutedVector
  | idtNotLoaded
  | gateNotWritten
  | gateNotPresent
  | badGateTarget
  | timerDivideByZero
  | unknownHandler
  deriving DecidableEq, Repr

/-- Memory: (address, byte) pairs in canonical form: addresses strictly rising, no entry holding 0,
which is what an unlisted address reads as (assumption log 4). -/
abbrev Memory := List Host.Cell

/-- The descriptor-table register (R20). -/
structure Idtr where
  base : Word
  limit : Half
  deriving DecidableEq, Repr

/-- Where a PIC chip stands in its initialisation sequence (R143). -/
inductive PicInit where
  | ready
  | w2
  | w3
  | w4
  deriving DecidableEq, Repr

/-- One 8259 chip (R143). -/
structure Pic where
  initStep : PicInit
  ic4 : Bool
  sngl : Bool
  base : Byte
  cascade : Byte
  mode : Byte
  imr : Byte
  irr : Byte
  isr : Byte
  deriving DecidableEq, Repr

/-- The eight general-purpose registers of a snapshot (R27). -/
structure Gpr where
  eax : Word
  ecx : Word
  edx : Word
  ebx : Word
  esp : Word
  ebp : Word
  esi : Word
  edi : Word
  deriving DecidableEq, Repr

/-- The data segment registers of a snapshot, as saved (R27). -/
structure Seg where
  ds : Word
  es : Word
  fs : Word
  gs : Word
  deriving DecidableEq, Repr

/-- The CPU register values a delivery finds: a draw at each delivery (R34, R133). -/
structure CpuRegs where
  gpr : Gpr
  seg : Seg
  eip : Word
  cs : Word
  eflags : Word
  esp : Word
  ss : Word
  deriving DecidableEq, Repr

/-- The RegisterSnapshot (R27): the interrupt number, the optional error code, and the CPU's values. -/
structure Snapshot where
  intNo : Word
  errCode : Option Word
  cpu : CpuRegs
  deriving DecidableEq, Repr

/-- One event of the history (R11, R33). -/
inductive Event where
  /-- MW(addr, n, v) -/
  | mw (addr : Word) (n : Nat) (v : Word64)
  /-- PW(p, b) -/
  | pw (p : PortNum) (b : Byte)
  /-- PR(p, b) -/
  | pr (p : PortNum) (b : Byte)
  /-- SP(t) -/
  | sp (t : Text)
  /-- CALL(k, h, n) -/
  | call (k : Line) (h : Word) (n : Word)
  /-- RET(k) -/
  | ret (k : Line)
  /-- FAULT(c) -/
  | fault (c : FaultCode)
  /-- DLV(v, w): CPU vector v, trampoline vector w -/
  | dlv (v w : VectorNo)
  /-- IRET -/
  | iret
  /-- LIDT(base, limit) -/
  | lidt (base : Word) (limit : Half)
  /-- STI -/
  | sti
  deriving DecidableEq, Repr

/-- Where an invoked client stands between its CALL and its RET (R104, R111). -/
inductive ClientStage where
  /-- the timer callback has not counted yet (R115) -/
  | timerStart
  /-- the keyboard callback has not read its port yet (R118) -/
  | kbdStart
  /-- the client may take any step R111 allows it, on these ports of its own (R106, R118 LINE_EDIT) -/
  | free (ports : List PortNum)
  /-- the client has nothing left but its return -/
  | leave
  deriving DecidableEq, Repr

/-- Where a trampoline stands (R133), with the snapshot while it exists (R93). -/
inductive TrampStage where
  /-- it has built its snapshot and has not called DISPATCH yet -/
  | issue (snap : Snapshot)
  /-- it is inside its DISPATCH call, which has the snapshot by value -/
  | called (snap : Snapshot)
  /-- DISPATCH has returned and the snapshot exists no more; the interrupt return comes next -/
  | ret
  deriving DecidableEq, Repr

/-- One open activity of the interrupt side (assumption log 20). The newest runs. -/
inductive Frame where
  /-- a trampoline, with the CPU's values it restores at its end (R93, R133) -/
  | tramp (saved : CpuRegs) (stage : TrampStage)
  /-- an invocation of handler `h` on request index `k` (R104) -/
  | client (k : Line) (h : Word) (stage : ClientStage)
  deriving DecidableEq, Repr

/-- One item of the host program (R17; assumption log 7). -/
inductive HostItem where
  /-- a command word on the host port (R53) -/
  | word (cw : Word64)
  /-- TIMER_INIT f (R112) -/
  | timerInit (f : Word)
  /-- KBD_INIT (R117) -/
  | kbdInit
  /-- a foreground write to the Screen (R161) -/
  | print (t : Text)
  deriving DecidableEq, Repr

/-- One step a client may take (R106, R111). -/
inductive ClientAct where
  | portRead (p : PortNum)
  | portWrite (p : PortNum) (b : Byte)
  | print (t : Text)
  /-- a host command, through the host command port (R106) -/
  | host (cw : Word64)
  /-- a change of the client's own state, which the model does not hold (assumption log 16) -/
  | own
  deriving DecidableEq, Repr

/-- Which agent takes the next step, with the environment's own choices (R130; assumption log 5). -/
inductive Choice where
  /-- the running software: the newest frame, or the host when none is open -/
  | run
  /-- the running client takes this step -/
  | act (a : ClientAct)
  /-- Raise(L) (R148) -/
  | raise (line : Line)
  /-- Exc(v, e), with the CPU's register values (R131) -/
  | exc (v : BitVec 5) (e : Option Word) (cpu : CpuRegs)
  /-- Req(L), with the CPU's register values (R131) -/
  | req (line : Line) (cpu : CpuRegs)
  deriving DecidableEq, Repr

/-- The machine's state. -/
structure State where
  /-- the parameters (R9, R35); no step changes them (assumption log 1) -/
  cfg : Params
  /-- memory, the IDT image in it (R18, R37) -/
  mem : Memory
  /-- bit v: SETGATE has written slot v since reset (R19) -/
  gw : BitVec 256
  /-- the descriptor-table register (R20) -/
  idtr : Idtr
  /-- LOADIDT has run (R21) -/
  loaded : Bool
  /-- PICREMAP has run (R22) -/
  remapped : Bool
  /-- ENABLE has run (R23) -/
  running : Bool
  /-- IF, the CPU's maskable-interrupt enable (R24) -/
  intFlag : Bool
  /-- REG[0..15], handler id 0 meaning none (R25) -/
  reg : Vector Word 16
  /-- deliveries entered and not returned (R28) -/
  depth : Nat
  /-- saved IF bits, newest first (R28) -/
  ifsave : List Bool
  /-- the fault register (R29) -/
  fault : Option FaultCode
  /-- stopped after an exception report under Halt (R30) -/
  halted : Bool
  /-- H, the event history, oldest first (R33) -/
  hist : List Event
  /-- the primary PIC (R143) -/
  picP : Pic
  /-- the secondary PIC (R143) -/
  picS : Pic
  /-- the timer client's counter (R113) -/
  tick : Word
  /-- the host program (R17, R35) -/
  prog : List HostItem
  /-- the host command index (R17) -/
  hostIndex : Nat
  /-- port writes a TIMER_INIT has still to make (R112; assumption log 7) -/
  hostPending : List (PortNum × Byte)
  /-- open trampolines and invocations, newest first (assumption log 20) -/
  frames : List Frame
  /-- the schedule: who moves next (assumption log 5) -/
  sched : List Choice
  /-- the schedule after that, repeated for ever (R104, R167; assumption log 30) -/
  cycle : List Choice
  /-- bytes the devices will answer to port reads, oldest first (assumption log 13) -/
  portIn : List Byte
  /-- how many free bytes port reads have drawn (assumption log 13) -/
  draws : Nat
  deriving DecidableEq, Repr

/-- Why the machine stops without a next state. Every one of them is a point where the spec gives no
further step, or asks the model to fault. -/
inductive Fault where
  /-- raised by `step`: the fault register holds `c`, and no agent has a further step (R29, R123). Safe:
  the spec gives no step either. -/
  | sticky (c : FaultCode)
  /-- raised by `step`: the Halt stop; no agent has a further step (R30). Safe. -/
  | halted
  /-- raised by `step`: it is the host's turn and its program has no item left (R17, R168). Safe. -/
  | idle
  /-- raised by a client's port write: a PIC command byte outside the modelled set (R147). Safe: the
  spec asks a model that meets one to fault. -/
  | picCommandUnmodelled (p : PortNum) (b : Byte)
  deriving DecidableEq, Repr

/-- Why the machine gives a step no meaning. -/
inductive Refusal where
  /-- raised by `exec` for an operation that has no meaning yet. Safe. No arm uses it. -/
  | notModelled (mnemonic : String)
  /-- raised by `step`: IDT_BASE breaks the no-wrap rule, so no run exists (R40). Safe. -/
  | badConfiguration
  /-- raised by `step`: the schedule names a step that is not enabled in this state, so the run it
  describes does not exist (R111, R131, R148). Safe. -/
  | notEnabled (c : Choice)
  deriving DecidableEq, Repr

/-- The values the spec leaves unspecified at reset: each is a draw (R36, R150). -/
structure ResetDraw where
  mem : Memory
  idtr : Idtr
  picP : Pic
  picS : Pic
  deriving DecidableEq, Repr

/-- What the outside brings: the host program, the schedule, and the devices' bytes (R15, R17, R35). -/
structure Outside where
  prog : List HostItem
  sched : List Choice
  cycle : List Choice
  portIn : List Byte
  deriving DecidableEq, Repr

/-- A PIC at reset from its draw: `init_step = Ready`, and bits 2:0 of `base` are always 0 (R143, R150). -/
def Pic.resetFrom (d : Pic) : Pic := { d with initStep := .ready, base := d.base &&& 0xF8#8 }

/-- The state after reset (R36, R150, R153, R154) for every choice of the parameters, of the draws, and of
what the outside brings. -/
def State.resetWith (p : Params) (d : ResetDraw) (o : Outside) : State where
  cfg := p
  mem := d.mem
  gw := 0#256
  idtr := d.idtr
  loaded := false
  remapped := false
  running := false
  intFlag := false
  reg := Vector.replicate 16 0#32
  depth := 0
  ifsave := []
  fault := none
  halted := false
  hist := []
  picP := d.picP.resetFrom
  picS := d.picS.resetFrom
  tick := 0#32
  prog := o.prog
  hostIndex := 0
  hostPending := []
  frames := []
  sched := o.sched
  cycle := o.cycle
  portIn := o.portIn
  draws := 0

/-- A PIC whose every register holds 0 (assumption log 3). -/
def Pic.zero : Pic :=
  { initStep := .ready, ic4 := false, sngl := false, base := 0#8, cascade := 0#8, mode := 0#8,
    imr := 0#8, irr := 0#8, isr := 0#8 }

/-- The draws `State.reset` takes: nothing listed in memory, every register 0 (assumption log 3). -/
def ResetDraw.zero : ResetDraw :=
  { mem := [], idtr := { base := 0#32, limit := 0#16 }, picP := Pic.zero, picS := Pic.zero }

/-- Nothing placed from outside (assumption log 7). -/
def Outside.none : Outside := { prog := [], sched := [], cycle := [], portIn := [] }

/-- The machine right after reset (R36, R153), in the common configuration with its open values free
(assumption logs 1, 2, 3). -/
def State.reset : State := State.resetWith Config.atReset ResetDraw.zero Outside.none

end Sys2Proof.Machine
end

