-- ==== Sys2Proof/Machine/Flags.lean ====
section
/-! DEFINITION. The one flag any rule reads, IF, and its saved copies (spec/10_state.md R24, R28, R32;
spec/60_exceptions.md R134, R136). -/

namespace Sys2Proof.Machine

/-- ENABLE sets IF (R107). -/
def State.setIf (s : State) : State := { s with intFlag := true }

/-- Trap entry saves IF and clears it, one level deeper (R134). -/
def State.enterLevel (s : State) : State :=
  { s with ifsave := s.intFlag :: s.ifsave, depth := s.depth + 1, intFlag := false }

/-- Trap return restores the saved IF, one level up (R136). With nothing saved, which no run reaches, IF
stays (assumption log 19). -/
def State.leaveLevel (s : State) : State :=
  { s with intFlag := s.ifsave.headD s.intFlag, ifsave := s.ifsave.tail, depth := s.depth - 1 }

end Sys2Proof.Machine
end

