-- ==== Sys2Proof/Machine/Memory.lean ====
section
/-! DEFINITION. Reading and writing memory (spec/20_memory.md R37, R41; spec/00_scope.md R11 MemWrite, MemRead). -/

namespace Sys2Proof.Machine

/-- The canonical form from address `lo` on: addresses strictly rising and inside the 32-bit space, no
entry equal to what an unlisted address reads as. -/
def Memory.wfFrom (lo : Nat) : Memory → Bool
  | [] => true
  | c :: cs => decide (lo ≤ c.1) && decide (c.1 < 2 ^ 32) && c.2 != 0#8 && Memory.wfFrom (c.1 + 1) cs

/-- The canonical form of memory. -/
def Memory.wf (m : Memory) : Bool := Memory.wfFrom 0 m

/-- What an address no entry lists reads as (assumption log 4). -/
def Memory.unlisted : Byte := 0#8

/-- The byte at an address. -/
def Memory.read : Memory → Nat → Byte
  | [], _ => Memory.unlisted
  | c :: cs, a => if c.1 = a then c.2 else Memory.read cs a

/-- Memory with no entry at an address. -/
def Memory.erase : Memory → Nat → Memory
  | [], _ => []
  | c :: cs, a => if c.1 = a then Memory.erase cs a else c :: Memory.erase cs a

/-- Memory with an entry put before the first higher address. -/
def Memory.insert : Memory → Nat → Byte → Memory
  | [], a, b => [(a, b)]
  | c :: cs, a, b => if a < c.1 then (a, b) :: c :: cs else c :: Memory.insert cs a b

/-- Write one byte, keeping the canonical form: writing what an unlisted address reads as unlists it. -/
def Memory.write (m : Memory) (a : Nat) (b : Byte) : Memory :=
  if b = Memory.unlisted then m.erase a else (m.erase a).insert a b

/-- Store the low `n` bytes of `v` from address `a` on, little-endian (R11 MemWrite, R41). Addresses are
taken modulo 2^32 (assumption log 21). -/
def Memory.store : Memory → Word → Nat → Word64 → Memory
  | m, _, 0, _ => m
  | m, a, n + 1, v => Memory.store (m.write a.toNat (v.setWidth 8)) (a + 1#32) n (v >>> 8)

/-- The `n` bytes from address `a` on, little-endian (R11 MemRead, R41). -/
def Memory.load : Memory → Word → Nat → Word64
  | _, _, 0 => 0#64
  | m, a, n + 1 => (m.read a.toNat).setWidth 64 ||| (Memory.load m (a + 1#32) n <<< 8)

end Sys2Proof.Machine
end

