-- ==== Sys2Proof/Machine/Operands.lean ====
section
/-! DEFINITION. The operand forms: gate descriptors, the IDTR image, request indices, dispatch words, report texts, and the
parameters looked up by an operand (spec/30_encoding.md R61 to R68; spec/41_dispatcher.md R83, R85, R87; spec/00_scope.md R9). -/

namespace Sys2Proof.Machine

/-- The gate descriptor SETGATE writes for a handler address (R64, R73). -/
def gateOf (p : Params) (addr : Word) : Word64 :=
  addr.extractLsb' 16 16 ++ p.gateFlags ++ 0x00#8 ++ p.codeSelector ++ addr.extractLsb' 0 16

/-- The handler address put together again from a gate descriptor (R65, R132). -/
def gateAddr (g : Word64) : Word := g.extractLsb' 48 16 ++ g.extractLsb' 0 16

/-- Bit 47 of a gate descriptor, P (R64, R132). -/
def gatePresent (g : Word64) : Bool := g.getLsbD 47

/-- The address of IDT slot `v` from a table base (R18, R43). -/
def slotAddr (base : Word) (v : VectorNo) : Word := base + 8#32 * v.setWidth 32

/-- Is `v` a request vector, 32 to 47 (R14, R73)? -/
def isRequestVector (v : Byte) : Bool := decide (32 ≤ v.toNat ∧ v.toNat ≤ 47)

/-- The bytes of a little-endian number, lowest first (R41). -/
def bytesLE (n : Nat) (v : Word64) : List Byte :=
  (List.range n).map fun i => (v >>> (8 * i)).setWidth 8

/-- The 6-byte memory image of the descriptor-table register (R68). -/
def Idtr.image (r : Idtr) : List Byte :=
  bytesLE 2 (r.limit.setWidth 64) ++ bytesLE 4 (r.base.setWidth 64)

/-- The request index `k = int_no - 32` (R87). -/
def requestIndex (intNo : Word) : Line := (intNo - 32#32).setWidth 4

/-- The command word a trampoline issues (R61, R133). -/
def dispatchWord (intNo : Word) : Word64 := mkWord 0x10#8 0x00#8 0x0000#16 intNo

/-- The snapshot a trampoline builds: its own number `w`, the error code, the CPU's values (R133). -/
def snapshotOf (w : VectorNo) (e : Option Word) (cpu : CpuRegs) : Snapshot :=
  { intNo := w.setWidth 32, errCode := e, cpu := cpu }

/-- Decimal rendering: no sign, no leading zeros, "0" for zero (R10 `dec`). -/
def dec (n : Nat) : Text := Nat.toDigits 10 n

/-- EXC_MSG[n]: the named messages 0 to 20, and "Reserved" (R26, R83). -/
def excMsgAt (p : Params) (n : Nat) : Text :=
  if h : n < 21 then p.excMsg[n] else "Reserved".toList

/-- The report text of an exception (R85). -/
def reportText (p : Params) (intNo : Word) : Text :=
  "Received interrupt: ".toList ++ dec intNo.toNat ++ ['\n'] ++ excMsgAt p intNo.toNat ++ ['\n']

/-- The no-wrap rule on IDT_BASE, `IDT_BASE + 2047 <= 0xFFFFFFFF` (R40). -/
def idtFits (p : Params) : Bool := decide (p.idtBase.toNat ≤ 0xFFFFFFFF - 2047)

/-- TRAMP: the vector number the trampoline at an address pushes (R9). -/
def trampAt (p : Params) (addr : Word) : Option VectorNo :=
  (p.tramps.find? fun e => decide (e.1 = addr)).map fun e => e.2

/-- TRAMP_ADDR: an address whose trampoline pushes `w` (R9). -/
def trampAddr (p : Params) (w : VectorNo) : Option Word :=
  (p.tramps.find? fun e => decide (trampAt p e.1 = some w)).map fun e => e.1

/-- CLIENT on a handler id; `none` where it is undefined (R9, R105). Id 0 names no handler (R25). -/
def clientOf (p : Params) (h : Word) : Option ClientKind :=
  if h = 0#32 then none
  else if h = p.timerH then some .timer
  else if h = p.kbdH then some .keyboard
  else (p.others.find? fun e => decide (e.1 = h)).map fun e => .other e.2

/-- Where an invoked client starts (R115, R118, R111). -/
def firstStage : ClientKind → ClientStage
  | .timer => .timerStart
  | .keyboard => .kbdStart
  | .other ports => .free ports

/-- The ports of the two PICs, which the block owns (R38). -/
def isPicPort (p : PortNum) : Bool :=
  p == Config.picPCmd || p == Config.picPData || p == Config.picSCmd || p == Config.picSData

/-- No client's own ports are PIC ports, as the port map has it (R37, R38). -/
def clientsOffPic (p : Params) : Bool := p.others.all fun e => e.2.all fun q => !isPicPort q

/-- The divisor of a timer frequency (R112, R114). -/
def timerDivisor (f : Word) : Nat := Config.baseClock / f.toNat

/-- The three PIT writes of TIMER_INIT, in order (R112). -/
def timerWrites (p : Params) (f : Word) : List (PortNum × Byte) :=
  [(Config.pitCmdPort, p.pitCmd), (Config.pitData, BitVec.ofNat 8 (timerDivisor f)),
    (Config.pitData, BitVec.ofNat 8 (timerDivisor f / 256))]

end Sys2Proof.Machine
end

