-- ==== Sys2Proof/Machine/Pic.lean ====
section
/-! DEFINITION. The PIC device model (spec/60_exceptions.md R143 to R149). -/

namespace Sys2Proof.Machine

/-- A command byte with bit 4 set: ICW1 (R144). -/
def Pic.icw1 (c : Pic) (b : Byte) : Pic :=
  { c with initStep := .w2, ic4 := b.getLsbD 0, sngl := b.getLsbD 1, imr := 0#8, isr := 0#8 }

/-- Non-specific EOI: clear the lowest-numbered set bit of `isr` (R147). -/
def Pic.eoi (c : Pic) : Pic := { c with isr := c.isr &&& (c.isr - 1#8) }

/-- Is this command byte in the modelled set (R144, R147)? -/
def picCommandCovered (b : Byte) : Bool := b.getLsbD 4 || b == 0x20#8

/-- A write to the command port (R144, R147). A byte outside the modelled set changes nothing here: the
step that would write one faults instead (assumption log 17). -/
def Pic.command (c : Pic) (b : Byte) : Pic :=
  if b.getLsbD 4 then c.icw1 b else if b = 0x20#8 then c.eoi else c

/-- A write to the data port: ICW2, ICW3 and ICW4 in the initialisation sequence, else the mask (R145, R146). -/
def Pic.data (c : Pic) (b : Byte) : Pic :=
  match c.initStep with
  | .w2 =>
    { c with
      base := b &&& 0xF8#8
      initStep := if c.sngl then (if c.ic4 then .w4 else .ready) else .w3 }
  | .w3 => { c with cascade := b, initStep := if c.ic4 then .w4 else .ready }
  | .w4 => { c with mode := b, initStep := .ready }
  | .ready => { c with imr := b }

/-- Does the chip offer input `j` (R149)? -/
def Pic.offers (c : Pic) (j : Nat) : Bool :=
  c.initStep == .ready && c.irr.getLsbD j && !c.imr.getLsbD j && c.isr == 0#8

/-- Raise input `j`: the pending bit is set; a raise of a pending input is lost (R148). -/
def Pic.raiseInput (c : Pic) (j : Nat) : Pic := { c with irr := c.irr ||| BitVec.twoPow 8 j }

/-- Acknowledge input `j`: from pending to in service (R149). -/
def Pic.ackInput (c : Pic) (j : Nat) : Pic :=
  { c with irr := c.irr &&& ~~~(BitVec.twoPow 8 j), isr := c.isr ||| BitVec.twoPow 8 j }

/-- A line below 8 is an input of the primary chip (R128). -/
def isPrimaryLine (l : Line) : Bool := decide (l.toNat < 8)

/-- The chip's input number of a line (R128). -/
def inputOf (l : Line) : Nat := l.toNat % 8

/-- The environment step Raise(L) on the two chips (R148). -/
def State.raiseLine (s : State) (l : Line) : State :=
  if isPrimaryLine l then { s with picP := s.picP.raiseInput (inputOf l) }
  else { s with picS := s.picS.raiseInput (inputOf l) }

/-- Is line `l` offered to the CPU (R149)? Line 2 never is: it carries the secondary chip (R127). -/
def State.offersLine (s : State) (l : Line) : Bool :=
  if isPrimaryLine l then l != 2#4 && s.picP.offers (inputOf l)
  else s.picS.offers (inputOf l) && !s.picP.imr.getLsbD 2 && s.picP.isr == 0#8

/-- The CPU vector of an offered line (R128, R149). -/
def State.lineVector (s : State) (l : Line) : VectorNo :=
  if isPrimaryLine l then s.picP.base + BitVec.ofNat 8 (inputOf l)
  else s.picS.base + BitVec.ofNat 8 (inputOf l)

/-- The acknowledge of a delivery of line `l` (R149). -/
def State.ackLine (s : State) (l : Line) : State :=
  if isPrimaryLine l then { s with picP := s.picP.ackInput (inputOf l) }
  else
    { s with
      picS := s.picS.ackInput (inputOf l)
      picP := { s.picP with isr := s.picP.isr ||| BitVec.twoPow 8 2 } }

end Sys2Proof.Machine
end

