-- ==== Sys2Proof/Machine/Ops.lean ====
section
/-! DEFINITION. The named operations every meaning is made of: the primitives of spec/00_scope.md R11, the fault register
(spec/60_exceptions.md R123), taking an exception or a request (R132 to R134), and the return from one (R136). -/

namespace Sys2Proof.Machine

/-- The number of a fault code (R124). -/
def FaultCode.number : FaultCode → Byte
  | .illegalCommand => 0x01#8
  | .lateGateWrite => 0x02#8
  | .gateBeforeRemap => 0x03#8
  | .doubleLoad => 0x04#8
  | .doubleRemap => 0x05#8
  | .lateRemap => 0x06#8
  | .badIndex => 0x07#8
  | .lateRegister => 0x08#8
  | .enableBeforeLoad => 0x09#8
  | .enableBeforeRemap => 0x0A#8
  | .reenableInDispatch => 0x0B#8
  | .unroutedVector => 0x0C#8
  | .idtNotLoaded => 0x0D#8
  | .gateNotWritten => 0x0E#8
  | .gateNotPresent => 0x0F#8
  | .badGateTarget => 0x10#8
  | .timerDivideByZero => 0x11#8
  | .unknownHandler => 0x12#8

/-- Append one event to the history (R11, R33). -/
def State.emit (s : State) (e : Event) : State := { s with hist := s.hist ++ [e] }

/-- `raise Fault(c)`: the first code sticks, the event is appended, and nothing else happens (R29, R123). -/
def State.raise (s : State) (c : FaultCode) : State :=
  { s with fault := s.fault.or (some c), hist := s.hist ++ [.fault c] }

/-- `MemWrite(addr, n, v)` (R11). -/
def State.memWrite (s : State) (a : Word) (n : Nat) (v : Word64) : State :=
  { s with mem := s.mem.store a n v, hist := s.hist ++ [.mw a n v] }

/-- `PortWrite(p, b)`: the event, and the effect on the PIC that has the port (R11, R45). -/
def State.portWrite (s : State) (p : PortNum) (b : Byte) : State :=
  { s with
    hist := s.hist ++ [.pw p b]
    picP :=
      if p = Config.picPCmd then s.picP.command b
      else if p = Config.picPData then s.picP.data b else s.picP
    picS :=
      if p = Config.picSCmd then s.picS.command b
      else if p = Config.picSData then s.picS.data b else s.picS }

/-- The byte a port read draws: the next queued device byte, else a free value (R11; assumption log 13). -/
def State.drawByte (s : State) : Byte := s.portIn.headD (Config.freeByte s.draws)

/-- `PortRead(p)`: the draw is used up and the event appended (R11). -/
def State.portRead (s : State) (p : PortNum) : State :=
  { s with
    portIn := s.portIn.tail
    draws := if s.portIn.isEmpty then s.draws + 1 else s.draws
    hist := s.hist ++ [.pr p s.drawByte] }

/-- `ScreenPrint(t)` (R11, R120). -/
def State.screenPrint (s : State) (t : Text) : State := s.emit (.sp t)

/-- Write `REG[k]` (R25, R101). -/
def State.setReg (s : State) (k : Fin 16) (h : Word) : State := { s with reg := s.reg.set k h }

/-- The registry lookup `REG[k]` (R103). -/
def State.lookup (s : State) (k : Line) : Word := s.reg[k.toFin]

/-- The EOI sequence of request index `k`: secondary first for `k >= 8`, primary always (R97). -/
def State.eoi (s : State) (k : Line) : State :=
  (if 8 ≤ k.toNat then s.portWrite Config.picSCmd 0x20#8 else s).portWrite Config.picPCmd 0x20#8

/-- `Invoke(h, S)` up to the client's first step: `UnknownHandler` where CLIENT is undefined, else the CALL
event and an open invocation (R104, R105). The client takes the snapshot of the trampoline below it. -/
def State.invoke (s : State) (k : Line) (h intNo : Word) : State :=
  match clientOf s.cfg h with
  | none => s.raise .unknownHandler
  | some kind =>
    { s with hist := s.hist ++ [.call k h intNo], frames := .client k h (firstStage kind) :: s.frames }

/-- The frames once the newest frame's DISPATCH call has returned: its snapshot exists no more (R93). Where the
newest frame is not inside a DISPATCH call, nothing returns. -/
def endDispatch : List Frame → List Frame
  | [] => []
  | .tramp saved (.called _) :: fs => .tramp saved .ret :: fs
  | .tramp saved (.issue snap) :: fs => .tramp saved (.issue snap) :: fs
  | .tramp saved .ret :: fs => .tramp saved .ret :: fs
  | .client k h stage :: fs => .client k h stage :: fs

/-- DISPATCH returns to its trampoline (R86, R93, R104). -/
def State.dispatchReturn (s : State) : State := { s with frames := endDispatch s.frames }

/-- The client's return: the RET event, the invocation is closed, and DISPATCH returns (R104). -/
def State.clientReturn (s : State) (k : Line) : State :=
  { s with hist := s.hist ++ [.ret k], frames := endDispatch s.frames.tail }

/-- The bit `gw[v]` (R19). -/
def State.gateWritten (s : State) (v : VectorNo) : Bool := s.gw.getLsbD v.toNat

/-- The gate fetch for CPU vector `v`: the handler address and the number its trampoline pushes, or the
first fault that applies (R132, R125). -/
def State.gateFetch (s : State) (v : VectorNo) : Except FaultCode (Word × VectorNo) :=
  if s.loaded = false then .error .idtNotLoaded
  else if s.gateWritten v = false then .error .gateNotWritten
  else
    let g := s.mem.load (slotAddr s.idtr.base v) 8
    if gatePresent g = false then .error .gateNotPresent
    else
      match trampAt s.cfg (gateAddr g) with
      | none => .error .badGateTarget
      | some w => .ok (gateAddr g, w)

/-- Trap entry once the gate is fetched: IF saved and cleared, DLV, and the trampoline with its snapshot
stands ready to issue DISPATCH (R133, R134). -/
def State.trapEnter (s : State) (v w : VectorNo) (e : Option Word) (cpu : CpuRegs) : State :=
  { s.enterLevel with
    hist := s.hist ++ [.dlv v w]
    frames := .tramp cpu (.issue (snapshotOf w e cpu)) :: s.frames }

/-- Taking an exception or a request: `Deliver(v, e)` (R134). A request's acknowledge comes before it. -/
def State.deliver (s : State) (v : VectorNo) (e : Option Word) (cpu : CpuRegs) : State :=
  match s.gateFetch v with
  | .error c => s.raise c
  | .ok (_, w) => s.trapEnter v w e cpu

/-- The return from an exception or a request: IF restored, one level up, IRET, and the trampoline is
gone (R136). -/
def State.trapReturn (s : State) : State :=
  { s.leaveLevel with hist := s.hist ++ [.iret], frames := s.frames.tail }

end Sys2Proof.Machine
end

