-- ==== Sys2Proof/Machine/Registry.lean ====
section
/-! DEFINITION. The Handler Registry: REGISTER (spec/43_handler_registry.md R101, R102). -/

namespace Sys2Proof.Machine

/-- The REGISTER operation on a state (R101): used by the command and by the clients' inits (R112, R117). -/
def State.registerHandler (s : State) (index : Byte) (h : Word) : State :=
  if lt : index.toNat < 16 then
    if s.running then s.raise .lateRegister else s.setReg ⟨index.toNat, lt⟩ h
  else s.raise .badIndex

/-- REGISTER (R101). -/
def execRegister (index : Byte) (handlerId : Word) (s : State) : Host.Outcome State Fault Refusal :=
  .next (s.registerHandler index handlerId)

end Sys2Proof.Machine
end

