-- ==== Sys2Proof/Machine/Clients.lean ====
section
/-! DEFINITION. The boundary clients: the timer's and the keyboard's inits and callbacks (spec/45_boundary_clients.md
R111 to R122). -/

namespace Sys2Proof.Machine

/-- TIMER_INIT f up to its port writes: the fault of frequency 0, else REGISTER, and where that raised
nothing the three PIT writes are due (R112, R114). -/
def State.timerInit (s : State) (f : Word) : State :=
  if f = 0#32 then s.raise .timerDivideByZero
  else
    let t := s.registerHandler 0#8 s.cfg.timerH
    if t.fault.isNone then { t with hostPending := timerWrites s.cfg f } else t

/-- KBD_INIT (R117). -/
def State.kbdInit (s : State) : State := s.registerHandler 1#8 s.cfg.kbdH

/-- Put the newest frame's client at another stage. -/
def State.setStage (s : State) (k : Line) (h : Word) (stage : ClientStage) : State :=
  { s with frames := .client k h stage :: s.frames.tail }

/-- TIMER_CB: one increment modulo 2^32, and no other work (R115, C2). -/
def State.timerTick (s : State) : State := { s with tick := s.tick + 1#32 }

/-- KBD_CB's read: the scancode is drawn, and one above SC_MAX leaves nothing to do (R118, R119). -/
def State.kbdRead (s : State) (k : Line) (h : Word) : State :=
  (s.portRead Config.kbdData).setStage k h
    (if s.cfg.scMax < s.drawByte then .leave else .free [])

/-- The defined step of the client that runs, for invocation `h` on request index `k`; where none is left,
or the client is free to choose, it returns (R104, R115, R118). -/
def State.clientRun (s : State) (k : Line) (h : Word) : ClientStage → State
  | .timerStart => s.timerTick.setStage k h .leave
  | .kbdStart => s.kbdRead k h
  | .free _ => s.clientReturn k
  | .leave => s.clientReturn k

end Sys2Proof.Machine
end

