-- ==== Sys2Proof/Machine/Dispatcher.lean ====
section
/-! DEFINITION. The Interrupt Dispatcher: the paths of DISPATCH (spec/41_dispatcher.md R81 to R93). The trampoline's
frame holds the snapshot; `intNo` is its interrupt number (spec/30_encoding.md R61). -/

namespace Sys2Proof.Machine

/-- DISPATCH.EXC: the report, and `halted` under Halt (R84, R86). -/
def execDispatchExc (intNo : Word) (s : State) : Host.Outcome State Fault Refusal :=
  .next
    { s.screenPrint (reportText s.cfg intNo) with
      halted := s.halted || s.cfg.excPolicy == .halt }

/-- The request path: the EOI sequence, then the lookup, then the invocation of a registered handler
(R88 to R90). -/
def State.requestPath (s : State) (intNo : Word) : State :=
  let k := requestIndex intNo
  let acked := s.eoi k
  if acked.lookup k = 0#32 then acked else acked.invoke k (acked.lookup k) intNo

/-- DISPATCH.REQ on a primary line (R88). -/
def execDispatchReqPrimary (intNo : Word) (s : State) : Host.Outcome State Fault Refusal :=
  .next (s.requestPath intNo)

/-- DISPATCH.REQ on a secondary line (R88). -/
def execDispatchReqSecondary (intNo : Word) (s : State) : Host.Outcome State Fault Refusal :=
  .next (s.requestPath intNo)

/-- DISPATCH.UNROUTED: the fault is its effect (R91). -/
def execDispatchUnrouted (_intNo : Word) (s : State) : Host.Outcome State Fault Refusal :=
  .next (s.raise .unroutedVector)

end Sys2Proof.Machine
end

