-- ==== Sys2Proof/Machine/Enable.lean ====
section
/-! DEFINITION. The interrupt enable: ENABLE (spec/44_interrupt_enable.md R107 to R110). -/

namespace Sys2Proof.Machine

/-- ENABLE (R107). -/
def execEnable (s : State) : Host.Outcome State Fault Refusal :=
  if 0 < s.depth then .next (s.raise .reenableInDispatch)
  else if s.loaded = false then .next (s.raise .enableBeforeLoad)
  else if s.remapped = false then .next (s.raise .enableBeforeRemap)
  else .next ({ s.setIf with running := true }.emit .sti)

end Sys2Proof.Machine
end

