-- ==== Sys2Proof/Machine/Gates.lean ====
section
/-! DEFINITION. The Descriptor Table Builder: SETGATE and LOADIDT (spec/40_descriptor_table.md R73 to R80). -/

namespace Sys2Proof.Machine

/-- The 8-byte store of a gate and its `gw` bit (R73). -/
def State.writeGate (s : State) (v : VectorNo) (addr : Word) : State :=
  { s.memWrite (slotAddr s.cfg.idtBase v) 8 (gateOf s.cfg addr) with
    gw := s.gw ||| BitVec.twoPow 256 v.toNat }

/-- SETGATE (R73). -/
def execSetgate (vector : Byte) (addr : Word) (s : State) : Host.Outcome State Fault Refusal :=
  if s.loaded then .next (s.raise .lateGateWrite)
  else if isRequestVector vector && !s.remapped then .next (s.raise .gateBeforeRemap)
  else .next (s.writeGate vector addr)

/-- LOADIDT (R76). -/
def execLoadidt (s : State) : Host.Outcome State Fault Refusal :=
  if s.loaded then .next (s.raise .doubleLoad)
  else
    .next
      { s with
        idtr := { base := s.cfg.idtBase, limit := Config.idtLimit }
        loaded := true
        hist := s.hist ++ [.lidt s.cfg.idtBase Config.idtLimit] }

end Sys2Proof.Machine
end

