-- ==== Sys2Proof/Machine/Remap.lean ====
section
/-! DEFINITION. The PIC remapper: PICREMAP (spec/42_pic_remap.md R94 to R96; bytes of spec/30_encoding.md R69). -/

namespace Sys2Proof.Machine

/-- The ten writes of the remap, in order: ICW1, ICW2, ICW3, ICW4 and the mask, each to the primary and
then to the secondary (R94, R95). -/
def remapWrites : List (PortNum × Byte) :=
  [(Config.picPCmd, 0x11#8), (Config.picSCmd, 0x11#8),
    (Config.picPData, 0x20#8), (Config.picSData, 0x28#8),
    (Config.picPData, 0x04#8), (Config.picSData, 0x02#8),
    (Config.picPData, 0x01#8), (Config.picSData, 0x01#8),
    (Config.picPData, 0x00#8), (Config.picSData, 0x00#8)]

/-- Port writes one after the other (R45, R47). -/
def State.portWrites (s : State) : List (PortNum × Byte) → State
  | [] => s
  | w :: ws => (s.portWrite w.1 w.2).portWrites ws

/-- PICREMAP (R94). -/
def execPicremap (s : State) : Host.Outcome State Fault Refusal :=
  if s.running then .next (s.raise .lateRemap)
  else if s.remapped then .next (s.raise .doubleRemap)
  else .next { s.portWrites remapWrites with remapped := true }

end Sys2Proof.Machine
end

