-- ==== Sys2Proof/Machine/Dispatch.lean ====
section
/-! DEFINITION. The one match from an operation to its meaning, an arm per constructor (spec/30_encoding.md R55). -/

namespace Sys2Proof.Machine

def exec (i : Instr) (s : State) : Host.Outcome State Fault Refusal :=
  match i with
  | .setgate vector addr => Sys2Proof.Machine.execSetgate vector addr s
  | .loadidt => Sys2Proof.Machine.execLoadidt s
  | .picremap => Sys2Proof.Machine.execPicremap s
  | .register index handlerId => Sys2Proof.Machine.execRegister index handlerId s
  | .enable => Sys2Proof.Machine.execEnable s
  | .dispatchExc intNo => Sys2Proof.Machine.execDispatchExc intNo s
  | .dispatchReqPrimary intNo => Sys2Proof.Machine.execDispatchReqPrimary intNo s
  | .dispatchReqSecondary intNo => Sys2Proof.Machine.execDispatchReqSecondary intNo s
  | .dispatchUnrouted intNo => Sys2Proof.Machine.execDispatchUnrouted intNo s

end Sys2Proof.Machine
end

