-- ==== Sys2Proof/Machine/Agents.lean ====
section
/-! DEFINITION. What each agent does when it is its turn: the two command ports, the host, the trampolines, the clients and
the environment (spec/10_state.md R15, R17; spec/30_encoding.md R54, R66; spec/60_exceptions.md R131 to R137, R148). -/

namespace Sys2Proof.Machine

/-- A command word on a port: its operation, or the fault IllegalCommand (R54, R63, R66). -/
def runWord (port : CmdPort) (cw : Word64) (s : State) : Host.Outcome State Fault Refusal :=
  match decode port cw with
  | some i => exec i s
  | none => .next (s.raise .illegalCommand)

/-- The host command index advances when the item has completed: not after a fault, and not while port
writes are due (R17; assumption logs 7 and 10). -/
def State.hostAdvance (t : State) : State :=
  if t.fault.isNone && t.hostPending.isEmpty then { t with hostIndex := t.hostIndex + 1 } else t

/-- One item of the host program (R17, R112, R117, R161). -/
def runItem (item : HostItem) (s : State) : Host.Outcome State Fault Refusal :=
  match item with
  | .word cw => runWord .host cw s
  | .timerInit f => .next (s.timerInit f)
  | .kbdInit => .next s.kbdInit
  | .print t => .next (s.screenPrint t)

/-- After a host item: the index advances where the item completed. -/
def hostDone : Host.Outcome State Fault Refusal → Host.Outcome State Fault Refusal
  | .next t => .next t.hostAdvance
  | .fault r => .fault r
  | .refused r => .refused r

/-- The host's step: a port write that is due, else its next item; at the end of its list it has no step
(R17, R112, R168). -/
def hostStep (s : State) : Host.Outcome State Fault Refusal :=
  match s.hostPending with
  | w :: ws => .next (({ s with hostPending := ws }.portWrite w.1 w.2).hostAdvance)
  | [] =>
    match s.prog[s.hostIndex]? with
    | none => .fault .idle
    | some item => hostDone (runItem item s)

/-- After a DISPATCH call: it returns to its trampoline, unless it raised a fault or its client still runs
(R86, R93, R104, R123). -/
def dispatchDone : Host.Outcome State Fault Refusal → Host.Outcome State Fault Refusal
  | .next t => .next (if t.fault.isNone then t.dispatchReturn else t)
  | .fault r => .fault r
  | .refused r => .refused r

/-- The step of the newest software agent: a trampoline calls DISPATCH or returns from the interrupt, a
client runs or returns, and with nothing open the host runs (R12, R133, R136). A trampoline inside its
DISPATCH call is never the newest frame of a faultless run (assumption log 20). -/
def softwareStep (s : State) : Host.Outcome State Fault Refusal :=
  match s.frames with
  | [] => hostStep s
  | .tramp saved (.issue snap) :: rest =>
    dispatchDone (runWord .tramp (dispatchWord snap.intNo) { s with frames := .tramp saved (.called snap) :: rest })
  | .tramp _ (.called _) :: _ => .next s.dispatchReturn
  | .tramp _ .ret :: _ => .next s.trapReturn
  | .client k h stage :: _ => .next (s.clientRun k h stage)

/-- One chosen step of the running client, where R106 and R111 allow it; `c` is the schedule entry that
names it. A port must be the client's own (R111), and a PIC command byte outside the modelled set
faults (R147). -/
def clientAct (a : ClientAct) (s : State) (c : Choice) : Host.Outcome State Fault Refusal :=
  match s.frames with
  | .client _ _ (.free ports) :: _ =>
    match a with
    | .portRead p => if p ∈ ports then .next (s.portRead p) else .refused (.notEnabled c)
    | .portWrite p b =>
      if p ∈ ports then
        if (p = Config.picPCmd ∨ p = Config.picSCmd) ∧ picCommandCovered b = false then
          .fault (.picCommandUnmodelled p b)
        else .next (s.portWrite p b)
      else .refused (.notEnabled c)
    | .print t => .next (s.screenPrint t)
    | .host cw => runWord .host cw s
    | .own => .next s
  | _ => .refused (.notEnabled c)

/-- The step one schedule entry names (R130, R131, R134, R148). -/
def chosenStep (c : Choice) (s : State) : Host.Outcome State Fault Refusal :=
  match c with
  | .run => softwareStep s
  | .act a => clientAct a s c
  | .raise l => if l = 2#4 then .refused (.notEnabled c) else .next (s.raiseLine l)
  | .exc v e cpu => .next (s.deliver (v.setWidth 8) e cpu)
  | .req l cpu =>
    if s.intFlag && s.offersLine l then .next ((s.ackLine l).deliver (s.lineVector l) none cpu)
    else .refused (.notEnabled c)

/-- What of the schedule is due: its list, and once that is used up the list that repeats (assumption
logs 5 and 30). -/
def State.due (s : State) : List Choice :=
  match s.sched with
  | [] => s.cycle
  | c :: rest => c :: rest

/-- The state an agent moves from: the oldest entry due is taken. -/
def State.popped (s : State) : State := { s with sched := s.due.tail }

/-- The next step of the machine: the oldest entry due, or the running software where none is (assumption
log 5). -/
def agentStep (s : State) : Host.Outcome State Fault Refusal := chosenStep (s.due.headD .run) s.popped

/-- The host program with an item put at an index; a shorter program is filled up to it. -/
def placeItem : List HostItem → Nat → HostItem → List HostItem
  | [], 0, x => [x]
  | [], n + 1, x => .word 0#64 :: placeItem [] n x
  | _ :: ys, 0, x => x :: ys
  | y :: ys, n + 1, x => y :: placeItem ys n x

/-- The CPU values of a snapshot placed from outside: all 0. -/
def CpuRegs.zero : CpuRegs :=
  { gpr := { eax := 0#32, ecx := 0#32, edx := 0#32, ebx := 0#32, esp := 0#32, ebp := 0#32,
             esi := 0#32, edi := 0#32 }
    seg := { ds := 0#32, es := 0#32, fs := 0#32, gs := 0#32 }
    eip := 0#32, cs := 0#32, eflags := 0#32, esp := 0#32, ss := 0#32 }

/-- A command word placed where the next step takes it (assumption log 22): on the host port at the host's
index with nothing open, or, where it is a DISPATCH word a trampoline can issue, in a trampoline that
a delivery has entered. No fault and no halt stands in the way, and the software moves next. -/
def State.placeWord (s : State) (cw : Word64) : State :=
  let clear :=
    { s with
      fault := none, halted := false, hostPending := [], frames := [], depth := 0, ifsave := []
      sched := .run :: s.sched }
  if decode .tramp cw = none then
    { clear with prog := placeItem s.prog s.hostIndex (.word cw) }
  else
    { clear.enterLevel with
      frames := [.tramp CpuRegs.zero (.issue { intNo := cwA32 cw, errCode := none, cpu := CpuRegs.zero })] }

end Sys2Proof.Machine
end

