-- ==== Sys2Proof/Machine/Step.lean ====
section
/-! DEFINITION. One step of the machine, and a command word placed for the next step (spec/00_scope.md R12, R13;
spec/10_state.md R29, R30; spec/20_memory.md R40). -/

namespace Sys2Proof.Machine

/-- One step. A configuration that breaks the no-wrap rule has no run (R40); a faulted or halted state has
no further step (R29, R30); else the agent whose turn it is moves. -/
def step (s : State) : Host.Outcome State Fault Refusal :=
  if idtFits s.cfg = false then .refused .badConfiguration
  else
    match s.fault with
    | some c => .fault (.sticky c)
    | none => if s.halted then .fault .halted else agentStep s

/-- The state with the command word `w` (one word of 64 bits, R70) placed where the next step takes it. -/
def State.withFetchWord (s : State) (_nbits w : Nat) : State := s.placeWord (BitVec.ofNat 64 w)

end Sys2Proof.Machine
end

