-- ==== Sys2Proof/Safety.lean ====
section
/-! DEFINITION. The end of a run, fair runs, and the invariants of the machine in the terms claims use
(spec/70_reset_and_hazards.md R167, R168; spec/10_state.md R18 to R31; spec/60_exceptions.md R137, R143). -/

namespace Sys2Proof.Machine

/-- Is this schedule entry an event of the environment (R131, R148)? -/
def Choice.isEnvironment : Choice → Bool
  | .run => false
  | .act _ => false
  | .raise _ => true
  | .exc _ _ _ => true
  | .req _ _ => true

/-- The software has nothing left to do: no trampoline and no client is open, and the host is at the end of
its list (R17). -/
def State.SoftwareDone (s : State) : Prop :=
  s.frames = [] ∧ s.hostPending = [] ∧ s.prog.length ≤ s.hostIndex

/-- A final state: no fault, the host done, no delivery open and no environment event to come; or the Halt
stop (R168). -/
def State.isFinal (s : State) : Prop :=
  s.fault = none ∧
    (s.halted = true ∨
      s.SoftwareDone ∧ s.depth = 0 ∧ ∀ c ∈ s.sched ++ s.cycle, c.isEnvironment = false)

/-- The run from `s` goes on for `n` steps, and stands at `t` after them. -/
def State.Reaches (s : State) (n : Nat) (t : State) : Prop := core.run n s = .next t

/-- Weak fairness of the run from `s` (R167): the software that is enabled, a host command or the newest
trampoline or client, does not stay so for ever without a step. It takes a step, or a delivery opens above
it, or the run ends. The environment owes no step, and no time is counted (assumption log 31). -/
def State.Fair (s : State) : Prop :=
  ∀ (n : Nat) (t : State), s.Reaches n t → ¬t.SoftwareDone →
    ∃ m, n ≤ m ∧ ∀ u, s.Reaches m u → u.frames ≠ t.frames ∨ (u.due.headD .run).isEnvironment = false

/-- A state some agent can move in: configured, no fault, not halted (R29, R30, R40). -/
def State.Live (s : State) : Prop := idtFits s.cfg = true ∧ s.fault = none ∧ s.halted = false

/-- The software moves next: no entry is due or the oldest says so (assumption log 5). -/
def State.SoftwareNext (s : State) : Prop := s.due.headD .run = .run

/-- The gate fetch for vector `v` fails with `c`: the four faults in their order (R125, R132). -/
def State.FetchFails (s : State) (v : VectorNo) (c : FaultCode) : Prop :=
  s.loaded = false ∧ c = .idtNotLoaded ∨
    s.loaded = true ∧ s.gateWritten v = false ∧ c = .gateNotWritten ∨
    s.loaded = true ∧ s.gateWritten v = true ∧
      (s.mem.load (slotAddr s.idtr.base v) 8).getLsbD 47 = false ∧ c = .gateNotPresent ∨
    s.loaded = true ∧ s.gateWritten v = true ∧
      (s.mem.load (slotAddr s.idtr.base v) 8).getLsbD 47 = true ∧
      trampAt s.cfg (gateAddr (s.mem.load (slotAddr s.idtr.base v) 8)) = none ∧ c = .badGateTarget

/-- The number of open trampolines. -/
def openTramps : List Frame → Nat
  | [] => 0
  | .tramp _ _ :: fs => openTramps fs + 1
  | .client _ _ _ :: fs => openTramps fs

/-- The snapshots that exist, newest first: from the trampoline's entry to the return of its DISPATCH (R93). -/
def openSnaps : List Frame → List Snapshot
  | [] => []
  | .tramp _ (.issue snap) :: fs => snap :: openSnaps fs
  | .tramp _ (.called snap) :: fs => snap :: openSnaps fs
  | .tramp _ .ret :: fs => openSnaps fs
  | .client _ _ _ :: fs => openSnaps fs

/-- What the open trampolines will restore, newest first (R93, R133). -/
def savedRegs : List Frame → List CpuRegs
  | [] => []
  | .tramp saved _ :: fs => saved :: savedRegs fs
  | .client _ _ _ :: fs => savedRegs fs

/-- Every client stands on the DISPATCH call that invoked it, and every open DISPATCH call has its client
above it (R93, R104). -/
def stacked : List Frame → Bool
  | [] => true
  | .client _ _ _ :: .tramp _ (.called _) :: fs => stacked fs
  | .client _ _ _ :: _ => false
  | .tramp _ (.issue _) :: fs => stacked fs
  | .tramp _ (.called _) :: _ => false
  | .tramp _ .ret :: fs => stacked fs

/-- The ports a frame's client may use. -/
def Frame.ports : Frame → List PortNum
  | .client _ _ (.free ports) => ports
  | .client _ _ .timerStart => []
  | .client _ _ .kbdStart => []
  | .client _ _ .leave => []
  | .tramp _ _ => []

/-- Memory is in canonical form (R37; assumption log 4). -/
def State.MemInv (s : State) : Prop := s.mem.wf = true

/-- `depth` counts the saved IF bits (R28) and the open trampolines (assumption log 20). -/
def State.LevelInv (s : State) : Prop := s.depth = s.ifsave.length ∧ openTramps s.frames = s.depth

/-- Inside a delivery IF is 0, at every level but the outermost's saved bit (R92, R137). -/
def State.MaskInv (s : State) : Prop :=
  s.LevelInv ∧ (0 < s.depth → s.intFlag = false) ∧ true ∉ s.ifsave.dropLast

/-- The running phase has a loaded table and remapped PICs, and only it has IF at 1, now or saved
(R107, R108). -/
def State.PhaseInv (s : State) : Prop :=
  (s.running = true → s.loaded = true ∧ s.remapped = true) ∧ (s.intFlag = true → s.running = true) ∧
    (true ∈ s.ifsave → s.running = true)

/-- In the running phase IF is 1 outside every delivery, now or as the outermost saved bit (R108, R109). -/
def State.EnabledInv (s : State) : Prop :=
  s.LevelInv ∧ (s.running = true → (s.intFlag :: s.ifsave).getLast? = some true)

/-- A loaded IDTR holds IDT_BASE and 0x07FF (R31, R76). -/
def State.IdtrInv (s : State) : Prop :=
  s.loaded = true → s.idtr.base = s.cfg.idtBase ∧ s.idtr.limit = 0x07FF#16

/-- Bits 2:0 of a PIC's vector base are 0 (R143). -/
def State.PicBaseInv (s : State) : Prop := s.picP.base &&& 7#8 = 0#8 ∧ s.picS.base &&& 7#8 = 0#8

/-- A trampoline pushes a number of at most 255 (R70, R133). -/
def State.SnapInv (s : State) : Prop := ∀ snap ∈ openSnaps s.frames, snap.intNo.toNat ≤ 255

/-- A faultless machine's clients and DISPATCH calls stand in pairs (R93, R104; assumption log 20). -/
def State.StackInv (s : State) : Prop := s.fault = none → stacked s.frames = true

/-- What PICREMAP leaves in a chip, but for its pending and in-service bits (R96, R145). -/
def Pic.Programmed (c : Pic) (base cascade : Byte) : Prop :=
  c.initStep = .ready ∧ c.ic4 = true ∧ c.sngl = false ∧ c.base = base ∧ c.cascade = cascade ∧
    c.mode = 0x01#8 ∧ c.imr = 0x00#8

/-- Only the block writes the PICs' ports (R37, R38, R111): no client of the configuration, no open client
and no write the host has due uses one. -/
def State.OffPic (s : State) : Prop :=
  clientsOffPic s.cfg = true ∧ (∀ w ∈ s.hostPending, isPicPort w.1 = false) ∧
    ∀ f ∈ s.frames, ∀ p ∈ f.ports, isPicPort p = false

/-- After PICREMAP both chips stay programmed and unmasked (R96, R100). -/
def State.RemapInv (s : State) : Prop :=
  s.OffPic ∧ (s.remapped = true → s.picP.Programmed 0x20#8 0x04#8 ∧ s.picS.Programmed 0x28#8 0x02#8)

/-- Every slot SETGATE has written holds a gate of this configuration (R18, R73, R132). -/
def State.GateInv (s : State) : Prop :=
  ∀ v, s.gateWritten v = true → ∃ a, s.mem.load (slotAddr s.cfg.idtBase v) 8 = gateOf s.cfg a

end Sys2Proof.Machine
end

