-- ==== Sys2Proof/Certificates/Slice0/Obligations.lean ====
section
/-! DEFINITION. The statements for the provers. Each docstring names the rules of spec/ it comes from; where a clause rests
on a convention of the model, it names the assumption log's entry. -/

open Sys2Proof Sys2Proof.Machine

/-! ## Encodings -/

/-- R53 to R63, R71: words written out from the encoding of each operation decode to it (95_test_vectors V-E1, V-E2,
V-E10 to V-E16). -/
def Obligations.WrittenWordsDecode : Prop :=
  decodeTableWord 64 0x0121000000101210 = some (.setgate 33#8 0x00101210#32) ∧
    decodeTableWord 64 0x0200000000000000 = some .loadidt ∧
    decodeTableWord 64 0x0300000000000000 = some .picremap ∧
    decodeTableWord 64 0x0410000000000001 = some (.register 16#8 1#32) ∧
    decodeTableWord 64 0x0500000000000000 = some .enable ∧
    decodeTableWord 64 0x100000000000001F = some (.dispatchExc 31#32) ∧
    decodeTableWord 64 0x1000000000000027 = some (.dispatchReqPrimary 39#32) ∧
    decodeTableWord 64 0x1000000000000028 = some (.dispatchReqSecondary 40#32) ∧
    decodeTableWord 64 0x10000000FFFFFFFF = some (.dispatchUnrouted 0xFFFFFFFF#32)

/-- R54, R56 to R63: decoding the word of a well-formed operation on its own port gives it back, with every operand at
every value; on the other port the word is illegal. -/
def Obligations.DecodeOfEncode : Prop :=
  ∀ i : Instr, i.wf = true →
    decode i.port (encode i) = some i ∧ ∀ port, port ≠ i.port → decode port (encode i) = none

/-- R53 to R63: a word that decodes is the word of the operation it decodes to, on that operation's port, and the
operation is well-formed: every word has at most one meaning, and no bit of it is dropped. -/
def Obligations.EncodeOfDecode : Prop :=
  ∀ (port : CmdPort) (cw : Word64) (i : Instr), decode port cw = some i →
    encode i = cw ∧ i.port = port ∧ i.wf = true

/-- R62, R82: the demultiplexer chooses the path from `int_no` alone, by the ranges 0 to 31, 32 to 39, 40 to 47, and
48 up. -/
def Obligations.DemultiplexerChoosesByIntNo : Prop :=
  ∀ n : Word,
    decode .tramp (dispatchWord n) =
      some
        (if n.toNat ≤ 31 then .dispatchExc n
        else if n.toNat ≤ 39 then .dispatchReqPrimary n
        else if n.toNat ≤ 47 then .dispatchReqSecondary n
        else .dispatchUnrouted n)

/-- R66: which words are illegal on each port, and that an illegal word raises IllegalCommand and does nothing else.
-/
def Obligations.IllegalWordsRaiseIllegalCommand : Prop :=
  (∀ cw : Word64,
      decode .host cw = none ↔
        ¬(1 ≤ (cwOp cw).toNat ∧ (cwOp cw).toNat ≤ 5) ∨ cwRsv cw ≠ 0#16 ∨
          ((cwOp cw = 0x02#8 ∨ cwOp cw = 0x03#8 ∨ cwOp cw = 0x05#8) ∧ (cwA8 cw ≠ 0#8 ∨ cwA32 cw ≠ 0#32))) ∧
    (∀ cw : Word64,
      decode .tramp cw = none ↔ cwOp cw ≠ 0x10#8 ∨ cwRsv cw ≠ 0#16 ∨ cwA8 cw ≠ 0#8) ∧
    ∀ (port : CmdPort) (cw : Word64) (s : State), decode port cw = none → s.fault = none →
      runWord port cw s =
        .next { s with fault := some .illegalCommand, hist := s.hist ++ [.fault .illegalCommand] }

/-! ## Running -/

/-- R17, R54, R66: when the host's next item is a command word that decodes, the step runs the operation, and then the
host command index advances by one unless a fault was raised (assumption log 10). A word that decodes to nothing
raises IllegalCommand, and the index stays (assumption log 10). -/
def Obligations.StepRunsHostWord : Prop :=
  ∀ (s : State) (cw : Word64), s.Live → s.SoftwareNext → s.frames = [] → s.hostPending = [] →
    s.prog[s.hostIndex]? = some (.word cw) →
    (∀ (i : Instr) (t : State), decode .host cw = some i → exec i s.popped = .next t →
      step s = .next (if t.fault = none then { t with hostIndex := t.hostIndex + 1 } else t)) ∧
    (decode .host cw = none →
      step s =
        .next { s.popped with fault := some .illegalCommand, hist := s.hist ++ [.fault .illegalCommand] })

/-- R61, R82, R86, R93, R133: when a trampoline is about to call DISPATCH, the step runs the operation its interrupt
number chooses. Where that opened no client and raised no fault, DISPATCH has returned: the trampoline stands before
its interrupt return and the snapshot exists no more (assumption logs 6 and 20). -/
def Obligations.StepRunsTrampolineDispatch : Prop :=
  ∀ (s t : State) (saved : CpuRegs) (snap : Snapshot) (rest : List Frame) (i : Instr), s.Live → s.SoftwareNext →
    s.frames = .tramp saved (.issue snap) :: rest → decode .tramp (dispatchWord snap.intNo) = some i →
    exec i { s.popped with frames := .tramp saved (.called snap) :: rest } = .next t →
    step s =
      .next
        (if t.fault = none ∧ t.frames = .tramp saved (.called snap) :: rest then
          { t with frames := .tramp saved .ret :: rest }
        else t)

/-- R66, R106: a host command a client issues runs under its normal rule, and a word that decodes to nothing raises
IllegalCommand. -/
def Obligations.StepRunsClientHostCommand : Prop :=
  ∀ (s : State) (k : Line) (h : Word) (ports : List PortNum) (rest : List Frame) (cw : Word64)
    (more : List Choice), s.Live → s.frames = .client k h (.free ports) :: rest →
    s.due = .act (.host cw) :: more →
    (∀ i : Instr, decode .host cw = some i → step s = exec i s.popped) ∧
    (decode .host cw = none →
      step s =
        .next { s.popped with fault := some .illegalCommand, hist := s.hist ++ [.fault .illegalCommand] })

/-- R29, R30, R40, R123, R168: raising a fault records its code where none is recorded yet and keeps an earlier one,
appends its event, and changes nothing else. A faulted state is never final; it and a halted state have no further
step, nor has a final one, where a step of the software stops as idle (assumption log 9). A configuration whose table
would wrap has no run at all. -/
def Obligations.StoppedStatesHaveNoStep : Prop :=
  ∀ s : State,
    (∀ c, (s.fault = none → s.raise c = { s with fault := some c, hist := s.hist ++ [.fault c] }) ∧
        ∀ d, s.fault = some d → s.raise c = { s with hist := s.hist ++ [.fault c] }) ∧
      (∀ d, s.fault = some d → ¬s.isFinal ∧ ∀ t, step s ≠ .next t) ∧
      (idtFits s.cfg = false → step s = .refused .badConfiguration) ∧
      (∀ c, idtFits s.cfg = true → s.fault = some c → step s = .fault (.sticky c)) ∧
      (idtFits s.cfg = true → s.fault = none → s.halted = true → step s = .fault .halted) ∧
      (s.isFinal → (∀ t, step s ≠ .next t) ∧
        (idtFits s.cfg = true → s.halted = false → s.SoftwareNext → step s = .fault .idle))

/-- R167 (assumption log 31): which runs weak fairness admits, and what it gives. A schedule that is used up or has a
step of the software in its repeating part is fair, a client's endless loop among them; line raises for ever beside
enabled software are not. In a fair run a host command, trampoline or client that is enabled waits, unmoved, for only
finitely many line raises: then comes a step that is no raise, or the run ends. And where nothing but line raises and
steps of the software is scheduled, so that no client loops, a fair run brings the software to its end or stops. -/
def Obligations.FairRunsLetTheSoftwareEnd : Prop :=
  (∀ s : State, (s.cycle = [] ∨ ∃ c ∈ s.cycle, c.isEnvironment = false) → s.Fair) ∧
    (∀ (s : State) (l : Line), s.Live → ¬s.SoftwareDone → l ≠ 2#4 → s.sched = [] → s.cycle = [.raise l] →
      ¬s.Fair) ∧
    (∀ (s : State) (n : Nat) (t : State), s.Fair → s.Reaches n t → ¬t.SoftwareDone →
      ∃ m u, n ≤ m ∧ s.Reaches m u ∧ u.frames = t.frames ∧ u.hostIndex = t.hostIndex ∧
        u.hostPending = t.hostPending ∧ ((∀ l, u.due.head? ≠ some (.raise l)) ∨ ∀ v, step u ≠ .next v)) ∧
    ∀ s : State, s.Fair → (∀ c ∈ s.sched ++ s.cycle, c = .run ∨ ∃ l, c = .raise l) →
      ∃ n, ∀ t, s.Reaches n t → t.SoftwareDone

/-! ## The descriptor table -/

/-- R64, R65 (whose reassembly the spec marks as derived): the two address halves a gate holds, and their reassembly,
which gives the address back. -/
def Obligations.GateAddressReassembles : Prop :=
  (∀ (p : Params) (a : Word),
      (gateOf p a).extractLsb' 0 16 = a.extractLsb' 0 16 ∧
        (gateOf p a).extractLsb' 48 16 = a.extractLsb' 16 16 ∧ gateAddr (gateOf p a) = a) ∧
    ∀ g : Word64,
      (gateAddr g).toNat = (g.extractLsb' 48 16).toNat * 65536 + (g.extractLsb' 0 16).toNat

/-- R56, R73: SETGATE's word decodes. Before LOADIDT, of a slot that is no request vector or after PICREMAP, it
completes: the eight bytes of the slot hold the gate of the address, `gw` gains the slot's bit, one MW event is added,
and nothing else changes, no other byte of memory either. After LOADIDT it raises LateGateWrite; before it, of a
request vector before PICREMAP, GateBeforeRemap; and either way nothing is written. -/
def Obligations.SetgateWritesTheGateOrFaults : Prop :=
  ∀ (s : State) (v : Byte) (a : Word),
    decode .host (mkWord 0x01#8 v 0#16 a) = some (.setgate v a) ∧
      (s.loaded = false → (32 ≤ v.toNat ∧ v.toNat ≤ 47 → s.remapped = true) →
        ∃ t,
          exec (.setgate v a) s = .next t ∧
            t =
              { s with
                mem := t.mem, gw := t.gw
                hist := s.hist ++ [.mw (slotAddr s.cfg.idtBase v) 8 (gateOf s.cfg a)] } ∧
            (∀ u : VectorNo, t.gateWritten u = (decide (u = v) || s.gateWritten u)) ∧
            (∀ x : Nat, (∀ i < 8, x ≠ (slotAddr s.cfg.idtBase v + BitVec.ofNat 32 i).toNat) →
              t.mem.read x = s.mem.read x) ∧
            (List.range 8).map (fun i => t.mem.read (slotAddr s.cfg.idtBase v + BitVec.ofNat 32 i).toNat) =
              [a.extractLsb' 0 8, a.extractLsb' 8 8, s.cfg.codeSelector.extractLsb' 0 8,
                s.cfg.codeSelector.extractLsb' 8 8, 0x00#8, s.cfg.gateFlags, a.extractLsb' 16 8,
                a.extractLsb' 24 8]) ∧
      (s.fault = none → s.loaded = true →
        exec (.setgate v a) s =
          .next { s with fault := some .lateGateWrite, hist := s.hist ++ [.fault .lateGateWrite] }) ∧
      (s.fault = none → s.loaded = false → 32 ≤ v.toNat → v.toNat ≤ 47 → s.remapped = false →
        exec (.setgate v a) s =
          .next { s with fault := some .gateBeforeRemap, hist := s.hist ++ [.fault .gateBeforeRemap] })

/-- R74, which the spec marks as derived: writing a slot again replaces all 8 bytes, so memory reads as if only the
last write had been made, and no fault or event besides the write's own marks it. -/
def Obligations.SetgateOverwriteReplacesTheSlot : Prop :=
  ∀ (s : State) (v : Byte) (a b : Word), s.loaded = false →
    (32 ≤ v.toNat ∧ v.toNat ≤ 47 → s.remapped = true) →
    ∃ t u w,
      exec (.setgate v a) s = .next t ∧ exec (.setgate v b) t = .next u ∧ exec (.setgate v b) s = .next w ∧
        (∀ x : Nat, u.mem.read x = w.mem.read x) ∧ u.gw = w.gw ∧ u.fault = s.fault ∧
        u.hist =
          s.hist ++ [.mw (slotAddr s.cfg.idtBase v) 8 (gateOf s.cfg a),
            .mw (slotAddr s.cfg.idtBase v) 8 (gateOf s.cfg b)]

/-- R57, R76: LOADIDT's word decodes. It completes once, whatever slots are written: IDTR takes IDT_BASE and 0x07FF,
`loaded` is set, one LIDT event is added, and nothing else changes; a second one raises DoubleLoad and changes nothing
else. -/
def Obligations.LoadidtLoadsIdtrOnce : Prop :=
  decode .host (mkWord 0x02#8 0#8 0#16 0#32) = some .loadidt ∧
    (∀ s : State, s.loaded = false →
      exec .loadidt s =
        .next
          { s with
            idtr := { base := s.cfg.idtBase, limit := 0x07FF#16 }
            loaded := true
            hist := s.hist ++ [.lidt s.cfg.idtBase 0x07FF#16] }) ∧
    ∀ s : State, s.fault = none → s.loaded = true →
      exec .loadidt s = .next { s with fault := some .doubleLoad, hist := s.hist ++ [.fault .doubleLoad] }

/-- R40, R77 (which the spec marks as derived): after a LOADIDT the limit is 2047, and in a configuration that does
not wrap every slot lies whole between the base and the last byte the limit gives. -/
def Obligations.LimitCoversEverySlot : Prop :=
  ∀ s : State, idtFits s.cfg = true → s.loaded = false →
    ∃ t, exec .loadidt s = .next t ∧ t.idtr.limit.toNat = 256 * 8 - 1 ∧
      ∀ v : VectorNo, t.idtr.base.toNat ≤ (slotAddr t.idtr.base v).toNat ∧
        (slotAddr t.idtr.base v).toNat + 7 ≤ t.idtr.base.toNat + t.idtr.limit.toNat

/-- R80, which the spec marks as derived: after LOADIDT no step changes the table, the bits that say which slots were
written, or IDTR. -/
def Obligations.TableFixedAfterLoad : Prop :=
  ∀ s t : State, s.loaded = true → step s = .next t →
    t.loaded = true ∧ t.mem = s.mem ∧ t.gw = s.gw ∧ t.idtr = s.idtr

/-! ## The PICs -/

/-- R58, R94: PICREMAP's word decodes. Before ENABLE and not yet run it completes: ten port writes in the fixed order,
both chips ready, programmed and unmasked with nothing in service, `remapped` set, pending bits kept, and nothing else
changed. The chips' end state is the spec's own inference (R96, R145, marked derived) from the device model it adopts
from general knowledge (R144 to R146). In the running phase PICREMAP raises LateRemap; before it, a second one raises
DoubleRemap; and either way nothing is written. -/
def Obligations.PicremapProgramsBothChipsOrFaults : Prop :=
  decode .host (mkWord 0x03#8 0#8 0#16 0#32) = some .picremap ∧
    ∀ s : State,
      (s.running = false → s.remapped = false →
        exec .picremap s =
          .next
            { s with
              remapped := true
              hist := s.hist ++
                [.pw 0x20#16 0x11#8, .pw 0xA0#16 0x11#8, .pw 0x21#16 0x20#8, .pw 0xA1#16 0x28#8,
                  .pw 0x21#16 0x04#8, .pw 0xA1#16 0x02#8, .pw 0x21#16 0x01#8, .pw 0xA1#16 0x01#8,
                  .pw 0x21#16 0x00#8, .pw 0xA1#16 0x00#8]
              picP :=
                { initStep := .ready, ic4 := true, sngl := false, base := 0x20#8, cascade := 0x04#8,
                  mode := 0x01#8, imr := 0x00#8, irr := s.picP.irr, isr := 0x00#8 }
              picS :=
                { initStep := .ready, ic4 := true, sngl := false, base := 0x28#8, cascade := 0x02#8,
                  mode := 0x01#8, imr := 0x00#8, irr := s.picS.irr, isr := 0x00#8 } }) ∧
        (s.fault = none → s.running = true →
          exec .picremap s = .next { s with fault := some .lateRemap, hist := s.hist ++ [.fault .lateRemap] }) ∧
        (s.fault = none → s.running = false → s.remapped = true →
          exec .picremap s =
            .next { s with fault := some .doubleRemap, hist := s.hist ++ [.fault .doubleRemap] })

/-- R96, which the spec marks as derived, and R128: with both chips programmed, request line `L` has the CPU vector
`32 + L`. -/
def Obligations.RemappedLinesRaiseVectors32Up : Prop :=
  ∀ (s : State) (l : Line), s.picP.Programmed 0x20#8 0x04#8 → s.picS.Programmed 0x28#8 0x02#8 →
    (s.lineVector l).toNat = 32 + l.toNat

/-- R144, R145, R146, of the device model the spec adopts from general knowledge: what a write to a PIC's command port
with bit 4 set, and to its data port, does to the chip that has the port: ICW1, then ICW2 to ICW4 as ICW1 said, then
masks. The other chip is unchanged. -/
def Obligations.PicPortWritesFollowTheSequence : Prop :=
  ∀ (s : State) (b : Byte),
    (b.getLsbD 4 = true →
        (s.portWrite 0x20#16 b).picP =
            { s.picP with initStep := .w2, ic4 := b.getLsbD 0, sngl := b.getLsbD 1, imr := 0#8, isr := 0#8 } ∧
          (s.portWrite 0x20#16 b).picS = s.picS ∧
          (s.portWrite 0xA0#16 b).picS =
            { s.picS with initStep := .w2, ic4 := b.getLsbD 0, sngl := b.getLsbD 1, imr := 0#8, isr := 0#8 } ∧
          (s.portWrite 0xA0#16 b).picP = s.picP) ∧
      (s.portWrite 0x21#16 b).picS = s.picS ∧
      (s.portWrite 0xA1#16 b).picP = s.picP ∧
      ∀ c d : Pic, (c = s.picP ∧ d = (s.portWrite 0x21#16 b).picP) ∨
          (c = s.picS ∧ d = (s.portWrite 0xA1#16 b).picS) →
        (c.initStep = .w2 →
            d =
              { c with
                base := b &&& 0xF8#8
                initStep := if c.sngl = false then .w3 else if c.ic4 = true then .w4 else .ready }) ∧
          (c.initStep = .w3 → d = { c with cascade := b, initStep := if c.ic4 = true then .w4 else .ready }) ∧
          (c.initStep = .w4 → d = { c with mode := b, initStep := .ready }) ∧
          (c.initStep = .ready → d = { c with imr := b })

/-- R147, of the device model the spec adopts from general knowledge: the byte 0x20 on a chip's command port clears
the lowest-numbered set bit of its `isr` and nothing else, and a byte with bit 4 clear that is not 0x20 faults, as the
rule asks (assumption log 17). -/
def Obligations.NonSpecificEoiClearsTheLowestBit : Prop :=
  (∀ c : Pic,
      c.command 0x20#8 = { c with isr := (c.command 0x20#8).isr } ∧
        (c.isr = 0#8 → c.command 0x20#8 = c) ∧
        ∀ j < 8,
          (c.command 0x20#8).isr.getLsbD j =
            (c.isr.getLsbD j && (List.range j).any fun i => c.isr.getLsbD i)) ∧
    ∀ (s : State) (k : Line) (h : Word) (ports : List PortNum) (rest : List Frame) (more : List Choice)
      (p : PortNum) (b : Byte), s.Live → s.frames = .client k h (.free ports) :: rest → p ∈ ports →
      s.due = .act (.portWrite p b) :: more → p = 0x20#16 ∨ p = 0xA0#16 → b.getLsbD 4 = false →
      b ≠ 0x20#8 → step s = .fault (.picCommandUnmodelled p b)

/-- R97, R98, whose byte 0x20 the spec takes from general knowledge: the EOI sequence of request index `k` writes 0x20
to the secondary's command port first where `k >= 8`, then always to the primary's, and clears the lowest in-service
bit of each chip it writes to. -/
def Obligations.EoiSequenceAcknowledges : Prop :=
  ∀ (s : State) (k : Line),
    (8 ≤ k.toNat →
        s.eoi k =
          { s with
            hist := s.hist ++ [.pw 0xA0#16 0x20#8, .pw 0x20#16 0x20#8]
            picP := s.picP.eoi, picS := s.picS.eoi }) ∧
      (k.toNat ≤ 7 →
        s.eoi k = { s with hist := s.hist ++ [.pw 0x20#16 0x20#8], picP := s.picP.eoi })

/-- R148, of the device model the spec adopts from general knowledge: the environment may raise any line but 2 at any
step boundary: the line's pending bit is set, a raise of a pending line changes nothing, and line 2 is no step
(assumption log 12). -/
def Obligations.RaiseSetsThePendingBit : Prop :=
  ∀ (s : State) (l : Line) (more : List Choice), s.Live → s.due = .raise l :: more →
    (l = 2#4 → step s = .refused (.notEnabled (.raise l))) ∧
      (l ≠ 2#4 → l.toNat < 8 →
        ∃ t, step s = .next t ∧ t = { s with sched := more, picP := { s.picP with irr := t.picP.irr } } ∧
          (∀ j, t.picP.irr.getLsbD j = (decide (j = l.toNat) || s.picP.irr.getLsbD j)) ∧
          (s.picP.irr.getLsbD l.toNat = true → t = { s with sched := more })) ∧
      (8 ≤ l.toNat →
        ∃ t, step s = .next t ∧ t = { s with sched := more, picS := { s.picS with irr := t.picS.irr } } ∧
          (∀ j, t.picS.irr.getLsbD j = (decide (j = l.toNat - 8) || s.picS.irr.getLsbD j)) ∧
          (s.picS.irr.getLsbD (l.toNat - 8) = true → t = { s with sched := more }))

/-! ## The handler registry -/

/-- R59, R101: REGISTER's word decodes. An index 0 to 15 before ENABLE completes: the slot takes the handler id, no
event is added, and nothing else changes. An index of 16 or more raises BadIndex; a legal index in the running phase,
LateRegister; and either way nothing is written. -/
def Obligations.RegisterStoresTheHandlerOrFaults : Prop :=
  ∀ (s : State) (i : Byte) (h : Word),
    decode .host (mkWord 0x04#8 i 0#16 h) = some (.register i h) ∧
      (∀ lt : i.toNat < 16, s.running = false →
        exec (.register i h) s = .next { s with reg := s.reg.set i.toNat h lt }) ∧
      (s.fault = none → 16 ≤ i.toNat →
        exec (.register i h) s =
          .next { s with fault := some .badIndex, hist := s.hist ++ [.fault .badIndex] }) ∧
      (s.fault = none → i.toNat < 16 → s.running = true →
        exec (.register i h) s =
          .next { s with fault := some .lateRegister, hist := s.hist ++ [.fault .lateRegister] })

/-- R102: a second registration at an index replaces the first: the slot holds the second handler id, the state is the
one the second alone would have left, and there is no fault and no event. -/
def Obligations.LastRegistrationWins : Prop :=
  ∀ (s : State) (i : Byte) (a b : Word) (lt : i.toNat < 16), s.running = false →
    ∃ t u, exec (.register i a) s = .next t ∧ exec (.register i b) t = .next u ∧
      exec (.register i b) s = .next u ∧ u = { s with reg := s.reg.set i.toNat b lt }

/-- R25, R31, R108: in the running phase no step changes the registry, and the phase does not end. -/
def Obligations.RegistryFixedWhileRunning : Prop :=
  ∀ s t : State, s.running = true → step s = .next t → t.running = true ∧ t.reg = s.reg

/-! ## The enable -/

/-- R60, R107, R110: ENABLE's word decodes. Outside a delivery, after LOADIDT and PICREMAP, it completes: `running`
and IF are set, one STI event is added, and nothing else changes. Inside a delivery it raises ReenableInDispatch;
outside one, before LOADIDT, EnableBeforeLoad; then, before PICREMAP, EnableBeforeRemap; and IF keeps its value. -/
def Obligations.EnableStartsTheRunningPhaseOrFaults : Prop :=
  decode .host (mkWord 0x05#8 0#8 0#16 0#32) = some .enable ∧
    ∀ s : State,
      (s.depth = 0 → s.loaded = true → s.remapped = true →
        exec .enable s = .next { s with running := true, intFlag := true, hist := s.hist ++ [.sti] }) ∧
        (s.fault = none → 0 < s.depth →
          exec .enable s =
            .next
              { s with fault := some .reenableInDispatch, hist := s.hist ++ [.fault .reenableInDispatch] }) ∧
        (s.fault = none → s.depth = 0 → s.loaded = false →
          exec .enable s =
            .next { s with fault := some .enableBeforeLoad, hist := s.hist ++ [.fault .enableBeforeLoad] }) ∧
        (s.fault = none → s.depth = 0 → s.loaded = true → s.remapped = false →
          exec .enable s =
            .next { s with fault := some .enableBeforeRemap, hist := s.hist ++ [.fault .enableBeforeRemap] })

/-- R109, which the spec marks as derived: in the running phase, outside a delivery, ENABLE changes nothing but the
history. -/
def Obligations.SecondEnableOnlyAddsSti : Prop :=
  ∀ s : State, s.PhaseInv → s.EnabledInv → s.running = true → s.depth = 0 →
    exec .enable s = .next { s with hist := s.hist ++ [.sti] }

/-! ## The dispatcher -/

/-- R84, R85, R86, R26: DISPATCH.EXC of a number 0 to 31 completes: one ScreenPrint of the report, `halted` set under
Halt and only then, and nothing else changes. -/
def Obligations.ExceptionIsReported : Prop :=
  ∀ (s : State) (n : Word), n.toNat ≤ 31 → s.halted = false →
    ∃ msg : Text,
      (∀ h : n.toNat < 21, msg = s.cfg.excMsg[n.toNat]) ∧ (21 ≤ n.toNat → msg = "Reserved".toList) ∧
        exec (.dispatchExc n) s =
          .next
            { s with
              halted := decide (s.cfg.excPolicy = .halt)
              hist := s.hist ++
                [.sp ("Received interrupt: ".toList ++ Nat.toDigits 10 n.toNat ++ ['\n'] ++ msg ++ ['\n'])] }

/-- R92: the step in which a trampoline starts its DISPATCH, up to the CALL of its client (assumption log 6, DEDUCED),
runs with IF 0, and leaves IF, its saved copies and the depth as they are. Of the client's own steps up to its RET it
says nothing. -/
def Obligations.DispatchRunsMasked : Prop :=
  ∀ (s : State) (saved : CpuRegs) (snap : Snapshot) (rest : List Frame), s.MaskInv → s.SoftwareNext →
    s.frames = .tramp saved (.issue snap) :: rest →
    s.intFlag = false ∧
      ∀ t, step s = .next t → t.intFlag = false ∧ t.ifsave = s.ifsave ∧ t.depth = s.depth

/-- R90, R97: a request whose registry slot is empty completes with its acknowledgements alone: on a primary line the
primary's EOI, on a secondary line the secondary's and then the primary's. -/
def Obligations.EmptySlotOnlyAcknowledges : Prop :=
  ∀ (s : State) (n : Word),
    (32 ≤ n.toNat → n.toNat ≤ 39 → s.reg[n.toNat - 32]? = some 0#32 →
        exec (.dispatchReqPrimary n) s =
          .next { s with hist := s.hist ++ [.pw 0x20#16 0x20#8], picP := s.picP.eoi }) ∧
      (40 ≤ n.toNat → n.toNat ≤ 47 → s.reg[n.toNat - 32]? = some 0#32 →
        exec (.dispatchReqSecondary n) s =
          .next
            { s with
              hist := s.hist ++ [.pw 0xA0#16 0x20#8, .pw 0x20#16 0x20#8]
              picP := s.picP.eoi, picS := s.picS.eoi })

/-- R88, R104: a request whose registry slot names a client completes up to the client's first step: the
acknowledgements, then CALL, and the client's invocation is open. -/
def Obligations.RegisteredHandlerIsInvoked : Prop :=
  ∀ (s : State) (n h : Word) (kind : ClientKind), s.reg[n.toNat - 32]? = some h → h ≠ 0#32 →
    clientOf s.cfg h = some kind →
    (32 ≤ n.toNat → n.toNat ≤ 39 →
        exec (.dispatchReqPrimary n) s =
          .next
            { s with
              hist := s.hist ++ [.pw 0x20#16 0x20#8, .call (BitVec.ofNat 4 (n.toNat - 32)) h n]
              picP := s.picP.eoi
              frames := .client (BitVec.ofNat 4 (n.toNat - 32)) h (firstStage kind) :: s.frames }) ∧
      (40 ≤ n.toNat → n.toNat ≤ 47 →
        exec (.dispatchReqSecondary n) s =
          .next
            { s with
              hist := s.hist ++
                [.pw 0xA0#16 0x20#8, .pw 0x20#16 0x20#8, .call (BitVec.ofNat 4 (n.toNat - 32)) h n]
              picP := s.picP.eoi, picS := s.picS.eoi
              frames := .client (BitVec.ofNat 4 (n.toNat - 32)) h (firstStage kind) :: s.frames })

/-- R105: a request whose registry slot holds an id no client has raises UnknownHandler after its acknowledgements. -/
def Obligations.UnknownHandlerFaultsAfterEoi : Prop :=
  ∀ (s : State) (n h : Word), s.fault = none → s.reg[n.toNat - 32]? = some h → h ≠ 0#32 →
    clientOf s.cfg h = none →
    (32 ≤ n.toNat → n.toNat ≤ 39 →
        exec (.dispatchReqPrimary n) s =
          .next
            { s with
              hist := s.hist ++ [.pw 0x20#16 0x20#8, .fault .unknownHandler]
              picP := s.picP.eoi, fault := some .unknownHandler }) ∧
      (40 ≤ n.toNat → n.toNat ≤ 47 →
        exec (.dispatchReqSecondary n) s =
          .next
            { s with
              hist := s.hist ++ [.pw 0xA0#16 0x20#8, .pw 0x20#16 0x20#8, .fault .unknownHandler]
              picP := s.picP.eoi, picS := s.picS.eoi, fault := some .unknownHandler })

/-- R89, which the spec marks as derived: the step in which a request dispatch starts, up to the CALL of its client
(assumption log 6), makes its acknowledgements first, secondary before primary where the line is a secondary one, and
no later event of that step is a port write. -/
def Obligations.AcknowledgeComesBeforeTheCall : Prop :=
  ∀ (s t : State) (n : Word),
    (32 ≤ n.toNat → n.toNat ≤ 39 → exec (.dispatchReqPrimary n) s = .next t →
        ∃ rest, t.hist = s.hist ++ (.pw 0x20#16 0x20#8 :: rest) ∧ ∀ p b, Event.pw p b ∉ rest) ∧
      (40 ≤ n.toNat → n.toNat ≤ 47 → exec (.dispatchReqSecondary n) s = .next t →
        ∃ rest, t.hist = s.hist ++ (.pw 0xA0#16 0x20#8 :: .pw 0x20#16 0x20#8 :: rest) ∧
          ∀ p b, Event.pw p b ∉ rest)

/-- R62, R91: the word of a number 48 or more decodes to DISPATCH.UNROUTED, which raises UnroutedVector, its whole
effect. -/
def Obligations.UnroutedNumberFaults : Prop :=
  ∀ (s : State) (n : Word), 48 ≤ n.toNat → s.fault = none →
    decode .tramp (dispatchWord n) = some (.dispatchUnrouted n) ∧
      exec (.dispatchUnrouted n) s =
        .next { s with fault := some .unroutedVector, hist := s.hist ++ [.fault .unroutedVector] }

/-! ## Delivery and return -/

/-- R131 to R134: an exception is delivered at any step boundary, whatever IF holds, through a written, present gate
that leads to a trampoline: IF is saved and cleared, the depth grows by one, DLV is recorded, and the trampoline
stands ready with its own number, the error code and the CPU's values. -/
def Obligations.ExceptionDeliveryEntersTheTrampoline : Prop :=
  ∀ (s : State) (v : BitVec 5) (e : Option Word) (cpu : CpuRegs) (more : List Choice) (w : VectorNo),
    s.Live → s.due = .exc v e cpu :: more → s.loaded = true → s.gateWritten (v.setWidth 8) = true →
    (s.mem.load (slotAddr s.idtr.base (v.setWidth 8)) 8).getLsbD 47 = true →
    trampAt s.cfg (gateAddr (s.mem.load (slotAddr s.idtr.base (v.setWidth 8)) 8)) = some w →
    step s =
      .next
        { s with
          sched := more
          ifsave := s.intFlag :: s.ifsave
          depth := s.depth + 1
          intFlag := false
          hist := s.hist ++ [.dlv (v.setWidth 8) w]
          frames := .tramp cpu (.issue { intNo := w.setWidth 32, errCode := e, cpu := cpu }) :: s.frames }

/-- R125, R132, R134, R149: the four faults of a delivery, in the order of the gate fetch: of an exception, whatever
IF holds, with no other effect; and of a request of an offered line while IF is 1, after the acknowledge of the line.
-/
def Obligations.DeliveryFaultsInOrder : Prop :=
  ∀ (s : State) (c : FaultCode) (cpu : CpuRegs) (more : List Choice), s.Live →
    (∀ (v : BitVec 5) (e : Option Word), s.due = .exc v e cpu :: more → s.FetchFails (v.setWidth 8) c →
      step s = .next { s with sched := more, fault := some c, hist := s.hist ++ [.fault c] }) ∧
    (∀ l : Line, s.due = .req l cpu :: more → s.intFlag = true → s.offersLine l = true →
      s.FetchFails (s.lineVector l) c →
      step s =
        .next
          { s with
            sched := more
            picP :=
              if l.toNat < 8 then
                { s.picP with
                  irr := s.picP.irr &&& ~~~(BitVec.twoPow 8 l.toNat)
                  isr := s.picP.isr ||| BitVec.twoPow 8 l.toNat }
              else { s.picP with isr := s.picP.isr ||| BitVec.twoPow 8 2 }
            picS :=
              if l.toNat < 8 then s.picS
              else
                { s.picS with
                  irr := s.picS.irr &&& ~~~(BitVec.twoPow 8 (l.toNat - 8))
                  isr := s.picS.isr ||| BitVec.twoPow 8 (l.toNat - 8) }
            fault := some c
            hist := s.hist ++ [.fault c] })

/-- R131, R134, R149: a request of an offered primary line is delivered while IF is 1: the line is acknowledged on the
primary chip, and the delivery enters its trampoline with no error code. A secondary line acknowledges on both chips.
-/
def Obligations.RequestDeliveryAcknowledgesTheLine : Prop :=
  ∀ (s : State) (l : Line) (cpu : CpuRegs) (more : List Choice) (w : VectorNo), s.Live →
    s.due = .req l cpu :: more → s.intFlag = true → s.offersLine l = true → s.loaded = true →
    s.gateWritten (s.lineVector l) = true →
    (s.mem.load (slotAddr s.idtr.base (s.lineVector l)) 8).getLsbD 47 = true →
    trampAt s.cfg (gateAddr (s.mem.load (slotAddr s.idtr.base (s.lineVector l)) 8)) = some w →
    step s =
      .next
        { s with
          sched := more
          picP :=
            if l.toNat < 8 then
              { s.picP with
                irr := s.picP.irr &&& ~~~(BitVec.twoPow 8 l.toNat)
                isr := s.picP.isr ||| BitVec.twoPow 8 l.toNat }
            else { s.picP with isr := s.picP.isr ||| BitVec.twoPow 8 2 }
          picS :=
            if l.toNat < 8 then s.picS
            else
              { s.picS with
                irr := s.picS.irr &&& ~~~(BitVec.twoPow 8 (l.toNat - 8))
                isr := s.picS.isr ||| BitVec.twoPow 8 (l.toNat - 8) }
          ifsave := true :: s.ifsave
          depth := s.depth + 1
          intFlag := false
          hist := s.hist ++ [.dlv (s.lineVector l) w]
          frames := .tramp cpu (.issue { intNo := w.setWidth 32, errCode := none, cpu := cpu }) :: s.frames }

/-- R131, R149, R127, R92, R137: when a line is offered, in the registers of the chips; a request delivery starts
exactly while IF is 1 and its line is offered, so not while IF is 0, not of a masked or not pending line, not with a
line in service or a chip not ready, and never of line 2; and while a delivery is open none starts. A schedule that
asks for one that is not enabled is refused (assumption log 12). -/
def Obligations.RequestNeedsIfAndAnOffer : Prop :=
  ∀ (s : State) (l : Line),
    (s.offersLine l = true ↔
      (l.toNat < 8 ∧ l ≠ 2#4 ∧ s.picP.initStep = .ready ∧ s.picP.irr.getLsbD l.toNat = true ∧
          s.picP.imr.getLsbD l.toNat = false ∧ s.picP.isr = 0#8) ∨
        (8 ≤ l.toNat ∧ s.picS.initStep = .ready ∧ s.picS.irr.getLsbD (l.toNat - 8) = true ∧
          s.picS.imr.getLsbD (l.toNat - 8) = false ∧ s.picS.isr = 0#8 ∧ s.picP.imr.getLsbD 2 = false ∧
          s.picP.isr = 0#8)) ∧
    ∀ (cpu : CpuRegs) (more : List Choice), s.Live → s.due = .req l cpu :: more →
      (s.intFlag = true → s.offersLine l = true → ∃ t, step s = .next t) ∧
        (s.intFlag = false ∨ s.offersLine l = false → step s = .refused (.notEnabled (.req l cpu))) ∧
        (s.MaskInv → 0 < s.depth → step s = .refused (.notEnabled (.req l cpu)))

/-- R136: when DISPATCH has returned, the trampoline's step restores the saved IF, takes the depth down by one and
records IRET, and nothing else changes. -/
def Obligations.TrapReturnRestoresIf : Prop :=
  ∀ (s : State) (saved : CpuRegs) (rest : List Frame) (b : Bool) (bs : List Bool), s.Live →
    s.SoftwareNext → s.frames = .tramp saved .ret :: rest → s.ifsave = b :: bs →
    step s =
      .next
        { s.popped with
          intFlag := b, ifsave := bs, depth := s.depth - 1, hist := s.hist ++ [.iret], frames := rest }

/-- R27, R93, R133, R136: no step changes a snapshot or what an open trampoline will restore. A delivery, and only
one, opens a trampoline and its snapshot, both on top. A snapshot stops existing when the newest DISPATCH returns, in
the step of its call or of its client's return (assumption log 6), and what is to be restored stands until the
trampoline's own return. -/
def Obligations.OpenSnapshotsStayAsBuilt : Prop :=
  ∀ s t : State, step s = .next t →
    (openSnaps t.frames = openSnaps s.frames ∧ savedRegs t.frames = savedRegs s.frames) ∨
      (∃ (v w : VectorNo) (e : Option Word) (cpu : CpuRegs),
        t.frames = .tramp cpu (.issue { intNo := w.setWidth 32, errCode := e, cpu := cpu }) :: s.frames ∧
          t.hist = s.hist ++ [.dlv v w]) ∨
      (∃ (saved : CpuRegs) (snap : Snapshot) (rest : List Frame),
        (s.frames = .tramp saved (.issue snap) :: rest ∨ s.frames = .tramp saved (.called snap) :: rest ∨
          ∃ k h stage, s.frames = .client k h stage :: .tramp saved (.called snap) :: rest) ∧
          t.frames = .tramp saved .ret :: rest) ∨
      ∃ saved rest, s.frames = .tramp saved .ret :: rest ∧ t.frames = rest ∧ t.hist = s.hist ++ [.iret]

/-- R84, R86, R131, R134, R136, R168: under Continue, an exception delivered through a gate to a trampoline of an
exception number, and then run without interruption, leaves the machine in three steps (assumption log 6) as it was
but for three events: DLV, the report, IRET. IF and the depth are back, whatever they were. Where the schedule repeats
the exception, the run never ends (assumption log 30). -/
def Obligations.ExceptionRoundTripOnlyAddsHistory : Prop :=
  ∀ (s : State) (v : BitVec 5) (e : Option Word) (cpu : CpuRegs) (w : VectorNo), s.Live →
    s.cfg.excPolicy = .goOn → (∃ a, s.gateFetch (v.setWidth 8) = .ok (a, w)) → w.toNat ≤ 31 →
    (∀ more, s.due = .exc v e cpu :: .run :: .run :: more →
      core.run 3 s =
        .next
          { s with
            sched := more
            hist := s.hist ++ [.dlv (v.setWidth 8) w, .sp (reportText s.cfg (w.setWidth 32)), .iret] }) ∧
    (s.sched = [] → s.cycle = [.exc v e cpu, .run, .run] →
      ∀ n, core.run (3 * n) s =
        .next
          { s with
            hist := s.hist ++
              (List.replicate n
                [.dlv (v.setWidth 8) w, .sp (reportText s.cfg (w.setWidth 32)), .iret]).flatten })

/-- R90, R98, R134, R136, R149: a request of an offered line, delivered through a gate to its own trampoline with an
empty registry slot and then run without interruption, leaves the machine in three steps (assumption log 6) as it was
but for its history and its pending bit, which is cleared, with nothing in service on the chips the line goes through:
the primary, and for lines 8 to 15 the secondary too. The secondary is left as it was by lines 0 to 7. -/
def Obligations.RequestRoundTripLeavesNothingInService : Prop :=
  ∀ (s : State) (l : Line) (cpu : CpuRegs) (more : List Choice) (a : Word), s.Live →
    s.due = .req l cpu :: .run :: .run :: more → s.intFlag = true → s.offersLine l = true →
    s.gateFetch (s.lineVector l) = .ok (a, BitVec.ofNat 8 (32 + l.toNat)) → s.lookup l = 0#32 →
    core.run 3 s =
      .next
        { s with
          sched := more
          picP :=
            if l.toNat < 8 then
              { s.picP with irr := s.picP.irr &&& ~~~(BitVec.twoPow 8 l.toNat), isr := 0#8 }
            else { s.picP with isr := 0#8 }
          picS :=
            if l.toNat < 8 then s.picS
            else { s.picS with irr := s.picS.irr &&& ~~~(BitVec.twoPow 8 (l.toNat - 8)), isr := 0#8 }
          hist := s.hist ++
            ([.dlv (s.lineVector l) (BitVec.ofNat 8 (32 + l.toNat))] ++
              (if l.toNat < 8 then [] else [.pw 0xA0#16 0x20#8]) ++ [.pw 0x20#16 0x20#8, .iret]) }

/-! ## The clients -/

/-- R112, R114: TIMER_INIT with a frequency other than 0 before ENABLE, run by the host without interruption,
registers the timer at index 0 and writes the PIT's command byte and the divisor's low and high bytes. That it takes
four steps, the registration and each port write, is the model's (assumption log 7, DESIGN CHOICE), and so is that the
host index advances with the last write (assumption log 10, DEDUCED). -/
def Obligations.TimerInitProgramsThePit : Prop :=
  ∀ (s : State) (f : Word) (more : List Choice), s.Live →
    (s.due = .run :: .run :: .run :: .run :: more ∨ s.due = [] ∧ more = []) → s.frames = [] → s.hostPending = [] →
    s.prog[s.hostIndex]? = some (.timerInit f) → f ≠ 0#32 → s.running = false →
    core.run 4 s =
      .next
        { s with
          sched := more
          reg := s.reg.set 0 s.cfg.timerH
          hostIndex := s.hostIndex + 1
          hist := s.hist ++
            [.pw 0x43#16 s.cfg.pitCmd, .pw 0x40#16 (BitVec.ofNat 8 (1193180 / f.toNat)),
              .pw 0x40#16 (BitVec.ofNat 8 (1193180 / f.toNat / 256))] }

/-- R112, R117, R122: TIMER_INIT of frequency 0 raises TimerDivideByZero; TIMER_INIT of another frequency and KBD_INIT
raise LateRegister in the running phase; and KBD_INIT before it registers the keyboard at index 1. That the host index
stays where a fault was raised is the model's (assumption log 10). -/
def Obligations.ClientInitsFaultOrRegister : Prop :=
  ∀ (s : State) (item : HostItem), s.Live → s.SoftwareNext → s.frames = [] → s.hostPending = [] →
    s.prog[s.hostIndex]? = some item →
    (item = .timerInit 0#32 →
        step s =
          .next
            { s.popped with
              fault := some .timerDivideByZero, hist := s.hist ++ [.fault .timerDivideByZero] }) ∧
      ((item = .kbdInit ∨ ∃ f, f ≠ 0#32 ∧ item = .timerInit f) → s.running = true →
        step s =
          .next { s.popped with fault := some .lateRegister, hist := s.hist ++ [.fault .lateRegister] }) ∧
      (item = .kbdInit → s.running = false →
        step s =
          .next { s.popped with reg := s.reg.set 1 s.cfg.kbdH, hostIndex := s.hostIndex + 1 })

/-- R113, R115: the timer callback's one step counts by one modulo 2^32, with no event and no other effect on the
machine; the client then has only its return left. -/
def Obligations.TimerCallbackCountsOnce : Prop :=
  ∀ (s : State) (k : Line) (h : Word) (rest : List Frame), s.Live → s.SoftwareNext →
    s.frames = .client k h .timerStart :: rest →
    ∃ t, step s = .next t ∧ t.tick.toNat = (s.tick.toNat + 1) % 2 ^ 32 ∧
      t = { s.popped with tick := t.tick, frames := .client k h .leave :: rest }

/-- R113: no step but the timer callback's own writes the tick counter. -/
def Obligations.OnlyTheTimerCallbackCounts : Prop :=
  ∀ s t : State, step s = .next t →
    t.tick = s.tick ∨
      s.SoftwareNext ∧ ∃ k h rest, s.frames = .client k h .timerStart :: rest ∧
        t = { s.popped with tick := s.tick + 1#32, frames := .client k h .leave :: rest }

/-- R118, R119: the keyboard callback's first step reads one byte from port 0x60, the device's next or, where none is
queued, the free byte (assumption log 13); a byte above SC_MAX leaves only the return, any other lets the line editor
run, whose steps the model does not fix (assumption log 15). -/
def Obligations.KeyboardCallbackReadsTheScancode : Prop :=
  ∀ (s : State) (k : Line) (h : Word) (rest : List Frame), s.Live → s.SoftwareNext →
    s.frames = .client k h .kbdStart :: rest →
    (∀ (b : Byte) (more : List Byte), s.portIn = b :: more →
      step s =
        .next
          { s.popped with
            portIn := more
            hist := s.hist ++ [.pr 0x60#16 b]
            frames := .client k h (if s.cfg.scMax.toNat < b.toNat then .leave else .free []) :: rest }) ∧
    (s.portIn = [] →
      step s =
        .next
          { s.popped with
            draws := s.draws + 1
            hist := s.hist ++ [.pr 0x60#16 (Config.freeByte s.draws)]
            frames :=
              .client k h (if s.cfg.scMax.toNat < (Config.freeByte s.draws).toNat then .leave else .free []) ::
                rest })

/-- R86, R93, R104 (assumption log 15): a client with nothing left, and a free one that the schedule lets return,
returns: RET is recorded, its invocation is closed, DISPATCH returns and the snapshot exists no more, and nothing else
changes. -/
def Obligations.ClientReturnClosesTheInvocation : Prop :=
  ∀ (s : State) (k : Line) (h : Word) (stage : ClientStage) (saved : CpuRegs) (snap : Snapshot)
    (rest : List Frame), s.Live → s.SoftwareNext →
    s.frames = .client k h stage :: .tramp saved (.called snap) :: rest →
    (stage = .leave ∨ ∃ ports, stage = .free ports) →
    step s = .next { s.popped with hist := s.hist ++ [.ret k], frames := .tramp saved .ret :: rest }

/-- R11, R104, R106, R111, R159: each step a free client may choose takes its effect and no other: a read of one of
its own ports, a write of one that no PIC has, a text to the Screen, a change of its own state; a port not its own is
no step of it (assumption log 12). The byte a read returns, the queue's or the free one with its counter, is assumption
log 13 (DESIGN CHOICE); that a change of its own state changes nothing the model holds is assumption log 16 (DEDUCED).
A client the schedule never lets return runs for ever (assumption log 30). -/
def Obligations.ClientStepsTakeTheirEffect : Prop :=
  ∀ (s : State) (k : Line) (h : Word) (ports : List PortNum) (rest : List Frame) (a : ClientAct)
    (more : List Choice), s.Live → s.frames = .client k h (.free ports) :: rest → s.due = .act a :: more →
    (∀ x, a = .print x → step s = .next { s with sched := more, hist := s.hist ++ [.sp x] }) ∧
      (a = .own → step s = .next { s with sched := more }) ∧
      (∀ p b bs, a = .portRead p → p ∈ ports → s.portIn = b :: bs →
        step s = .next { s with sched := more, portIn := bs, hist := s.hist ++ [.pr p b] }) ∧
      (∀ p, a = .portRead p → p ∈ ports → s.portIn = [] →
        step s =
          .next
            { s with sched := more, draws := s.draws + 1, hist := s.hist ++ [.pr p (Config.freeByte s.draws)] }) ∧
      (∀ p b, a = .portWrite p b → p ∈ ports → isPicPort p = false →
        step s = .next { s with sched := more, hist := s.hist ++ [.pw p b] }) ∧
      (∀ p, p ∉ ports → (a = .portRead p ∨ ∃ b, a = .portWrite p b) →
        step s = .refused (.notEnabled (.act a))) ∧
      (a = .own → more = [] → s.cycle = [.act .own] → ∀ n, core.run (n + 1) s = .next { s with sched := [] })

/-- R111: a client's step that is no host command changes nothing of the block: not the table, the registers, the
registry, the flags, the levels, the fault register, and, where only the block has the PIC ports, not the PICs. -/
def Obligations.ClientStepsLeaveTheBlockAlone : Prop :=
  ∀ (s t : State) (k : Line) (h : Word) (stage : ClientStage) (rest : List Frame),
    s.frames = .client k h stage :: rest →
    (s.SoftwareNext ∨ ∃ a more, s.due = .act a :: more ∧ ∀ cw, a ≠ .host cw) → step s = .next t →
    t.mem = s.mem ∧ t.gw = s.gw ∧ t.idtr = s.idtr ∧ t.loaded = s.loaded ∧ t.remapped = s.remapped ∧
      t.running = s.running ∧ t.intFlag = s.intFlag ∧ t.reg = s.reg ∧ t.depth = s.depth ∧
      t.ifsave = s.ifsave ∧ t.fault = s.fault ∧ t.halted = s.halted ∧
      (s.OffPic → t.picP = s.picP ∧ t.picS = s.picS)

/-! ## Reset -/

/-- R36, R150, R153, R154: the reset state for every choice of parameters and draws: the phase bits, IF, the registry,
the levels, the fault register, the history, the host index and the tick at the stated values, both PICs ready with
bits 2:0 of their bases 0, no slot marked written, and no delivery open. -/
def Obligations.ResetHoldsTheStatedValues : Prop :=
  ∀ (p : Params) (d : ResetDraw) (o : Outside),
    let s := State.resetWith p d o
    s.loaded = false ∧ s.remapped = false ∧ s.running = false ∧ s.intFlag = false ∧
      (∀ k : Fin 16, s.reg[k] = 0#32) ∧ s.depth = 0 ∧ s.ifsave = [] ∧ s.fault = none ∧ s.halted = false ∧
      s.hist = [] ∧ s.hostIndex = 0 ∧ s.tick = 0#32 ∧ (∀ v, s.gateWritten v = false) ∧ s.frames = [] ∧
      s.picP.initStep = .ready ∧ s.picS.initStep = .ready ∧ s.PicBaseInv

/-- R36: the invariants hold after reset, for every choice of parameters and draws whose memory is in canonical form
(assumption logs 3 and 4); the one about the PICs where no client has their ports. -/
def Obligations.InvariantsHoldAtReset : Prop :=
  ∀ (p : Params) (d : ResetDraw) (o : Outside), d.mem.wf = true →
    let s := State.resetWith p d o
    s.MemInv ∧ s.MaskInv ∧ s.PhaseInv ∧ s.EnabledInv ∧ s.IdtrInv ∧ s.PicBaseInv ∧ s.SnapInv ∧ s.GateInv ∧
      s.StackInv ∧ (clientsOffPic p = true → s.RemapInv)

/-! ## Invariants and whole-machine rules -/

/-- R37 (assumption log 4): every step keeps memory in canonical form. -/
def Obligations.StepKeepsMemoryCanonical : Prop :=
  ∀ s t : State, s.MemInv → step s = .next t → t.MemInv

/-- R28, R92, R93, R104, R137: every step keeps `depth` the number of saved IF bits and of open trampolines, and IF at
0 inside every delivery; and in a faultless machine every step keeps each client on the DISPATCH call that invoked it,
and each open DISPATCH call under its client. -/
def Obligations.StepKeepsIfMaskedInDeliveries : Prop :=
  ∀ s t : State, step s = .next t → (s.MaskInv → t.MaskInv) ∧ (s.StackInv → t.StackInv)

/-- R107, R108, R109: every step keeps the running phase loaded and remapped and IF at 0 outside it, and keeps IF at 1
outside deliveries inside it. -/
def Obligations.StepKeepsThePhaseRules : Prop :=
  ∀ s t : State, step s = .next t → (s.PhaseInv → t.PhaseInv) ∧ (s.EnabledInv → t.EnabledInv)

/-- R31, R143, R70: every step keeps a loaded IDTR at IDT_BASE and 0x07FF, bits 2:0 of the PIC bases at 0, and the
interrupt numbers of open trampolines at most 255. -/
def Obligations.StepKeepsRegisterForms : Prop :=
  ∀ s t : State, step s = .next t →
    (s.IdtrInv → t.IdtrInv) ∧ (s.PicBaseInv → t.PicBaseInv) ∧ (s.SnapInv → t.SnapInv)

/-- R96, R100: where only the block has the PIC ports, every step keeps remapped chips programmed with the bases 32
and 40 and every line unmasked. -/
def Obligations.StepKeepsRemappedPicsProgrammed : Prop :=
  ∀ s t : State, s.RemapInv → step s = .next t → t.RemapInv

/-- R18, R19, R73: every step keeps a gate of this configuration in every slot marked written. -/
def Obligations.StepKeepsWrittenSlotsGates : Prop :=
  ∀ s t : State, s.GateInv → step s = .next t → t.GateInv

/-- R132: where the flags byte has its present bit, GateNotPresent cannot arise. -/
def Obligations.GateNotPresentCannotArise : Prop :=
  ∀ (s : State) (v : VectorNo), s.GateInv → s.IdtrInv → s.cfg.gateFlags.getLsbD 7 = true →
    s.gateFetch v ≠ .error .gateNotPresent

/-- R21 to R23, R33, R35: no step clears `loaded`, `remapped` or `running`, changes a parameter or the host program,
or takes an event out of the history. -/
def Obligations.StepOnlyGrowsHistoryAndPhases : Prop :=
  ∀ s t : State, step s = .next t →
    (s.loaded = true → t.loaded = true) ∧ (s.remapped = true → t.remapped = true) ∧
      (s.running = true → t.running = true) ∧ t.cfg = s.cfg ∧ t.prog = s.prog ∧
      ∃ es, t.hist = s.hist ++ es
end

