-- ==== Sys2Proof/Laws/Decode.lean ====
section
/-! SUPPORT. The fields of a command word put together from fields, and the demultiplexer's bit patterns as ranges. -/

namespace Sys2Proof

/-- Bit `j` of a command word, from its fields (R53). -/
theorem getLsbD_mkWord (op a8 : Byte) (rsv : Half) (a32 : Word) (j : Nat) :
    (mkWord op a8 rsv a32).getLsbD j =
      if j < 32 then a32.getLsbD j
      else if j - 32 < 16 then rsv.getLsbD (j - 32)
      else if j - 32 - 16 < 8 then a8.getLsbD (j - 32 - 16)
      else op.getLsbD (j - 32 - 16 - 8) := by
  refine (BitVec.getLsbD_append (x := op ++ a8 ++ rsv) (y := a32)).trans ?_
  rw [BitVec.getLsbD_append, BitVec.getLsbD_append]

@[simp] theorem cwOp_mkWord (op a8 : Byte) (rsv : Half) (a32 : Word) : cwOp (mkWord op a8 rsv a32) = op := by
  apply BitVec.eq_of_getLsbD_eq
  intro j hj
  simp only [cwOp, BitVec.getLsbD_extractLsb', getLsbD_mkWord, hj]
  rw [if_neg (by omega), if_neg (by omega), if_neg (by omega), show 56 + j - 32 - 16 - 8 = j by omega]
  simp

@[simp] theorem cwA8_mkWord (op a8 : Byte) (rsv : Half) (a32 : Word) : cwA8 (mkWord op a8 rsv a32) = a8 := by
  apply BitVec.eq_of_getLsbD_eq
  intro j hj
  simp only [cwA8, BitVec.getLsbD_extractLsb', getLsbD_mkWord, hj]
  rw [if_neg (by omega), if_neg (by omega), if_pos (by omega), show 48 + j - 32 - 16 = j by omega]
  simp

@[simp] theorem cwRsv_mkWord (op a8 : Byte) (rsv : Half) (a32 : Word) : cwRsv (mkWord op a8 rsv a32) = rsv := by
  apply BitVec.eq_of_getLsbD_eq
  intro j hj
  simp only [cwRsv, BitVec.getLsbD_extractLsb', getLsbD_mkWord, hj]
  rw [if_neg (by omega), if_pos (by omega), show 32 + j - 32 = j by omega]
  simp

@[simp] theorem cwA32_mkWord (op a8 : Byte) (rsv : Half) (a32 : Word) : cwA32 (mkWord op a8 rsv a32) = a32 := by
  apply BitVec.eq_of_getLsbD_eq
  intro j hj
  simp only [cwA32, BitVec.getLsbD_extractLsb', getLsbD_mkWord, hj]
  rw [if_pos (by omega)]
  simp

/-- A word is put together again from its own fields (R53). -/
theorem mkWord_fields (cw : Word64) : mkWord (cwOp cw) (cwA8 cw) (cwRsv cw) (cwA32 cw) = cw := by
  apply BitVec.eq_of_getLsbD_eq
  intro j hj
  simp only [getLsbD_mkWord, cwOp, cwA8, cwRsv, cwA32, BitVec.getLsbD_extractLsb']
  split
  · simp_all
  · split
    · rw [show 32 + (j - 32) = j by omega]
      simp_all
    · split
      · rw [show 48 + (j - 32 - 16) = j by omega]
        simp_all
      · rw [show 56 + (j - 32 - 16 - 8) = j by omega]
        simp
        omega

/-- Bits 31:5 are 0 exactly below 32 (R62). -/
theorem high27_eq_zero (n : Word) : n.extractLsb' 5 27 = 0#27 ↔ n.toNat ≤ 31 := by
  rw [← BitVec.toNat_inj]
  simp only [BitVec.extractLsb'_toNat, BitVec.toNat_ofNat, Nat.shiftRight_eq_div_pow]
  have := n.isLt
  omega

/-- Bits 31:3 are `c` exactly on the eight numbers from `8 * c` on (R62). -/
theorem high29_eq (n : Word) (c : Nat) (hc : c < 2 ^ 29) :
    n.extractLsb' 3 29 = BitVec.ofNat 29 c ↔ 8 * c ≤ n.toNat ∧ n.toNat < 8 * c + 8 := by
  rw [← BitVec.toNat_inj]
  simp only [BitVec.extractLsb'_toNat, BitVec.toNat_ofNat, Nat.shiftRight_eq_div_pow]
  have := n.isLt
  omega

/-- The demultiplexer on ranges of `int_no` (R62, R82). -/
theorem decodeIntNo_eq (n : Word) :
    decodeIntNo n =
      if n.toNat ≤ 31 then .dispatchExc n
      else if n.toNat ≤ 39 then .dispatchReqPrimary n
      else if n.toNat ≤ 47 then .dispatchReqSecondary n
      else .dispatchUnrouted n := by
  unfold decodeIntNo
  have h1 := high27_eq_zero n
  have h4 := high29_eq n 4 (by omega)
  have h5 := high29_eq n 5 (by omega)
  simp only [h1, h4, h5]
  split
  · rfl
  · split
    · rw [if_pos (by omega)]
    · split
      · rw [if_neg (by omega), if_pos (by omega)]
      · rw [if_neg (by omega), if_neg (by omega)]

namespace Machine

/-- A trampoline's word always decodes, to the operation the demultiplexer gives (R61, R63). -/
theorem decode_dispatchWord (n : Word) : decode .tramp (dispatchWord n) = some (decodeIntNo n) := by
  simp [decode, dispatchWord, decodeTramp]

end Machine

end Sys2Proof
end

