-- ==== Sys2Proof/Laws/Gate.lean ====
section
/-! SUPPORT. The fields of a gate descriptor put together from an address (spec/30_encoding.md R64, R65). -/

namespace Sys2Proof.Machine

/-- Bit `j` of a gate descriptor, from its fields (R64). -/
theorem getLsbD_gateOf (p : Params) (a : Word) (j : Nat) :
    (gateOf p a).getLsbD j =
      if j < 16 then a.getLsbD j
      else if j - 16 < 16 then p.codeSelector.getLsbD (j - 16)
      else if j - 16 - 16 < 8 then false
      else if j - 16 - 16 - 8 < 8 then p.gateFlags.getLsbD (j - 16 - 16 - 8)
      else decide (j - 16 - 16 - 8 - 8 < 16) && a.getLsbD (16 + (j - 16 - 16 - 8 - 8)) := by
  refine (BitVec.getLsbD_append
    (x := a.extractLsb' 16 16 ++ p.gateFlags ++ 0x00#8 ++ p.codeSelector) (y := a.extractLsb' 0 16)).trans ?_
  rw [BitVec.getLsbD_append, BitVec.getLsbD_append, BitVec.getLsbD_append]
  split
  · simp_all
  · split
    · rfl
    · split
      · simp
      · split
        · rfl
        · simp

/-- Bit `j` of a reassembled address (R65). -/
theorem getLsbD_gateAddr (g : Word64) (j : Nat) :
    (gateAddr g).getLsbD j =
      if j < 16 then g.getLsbD j else decide (j - 16 < 16) && g.getLsbD (48 + (j - 16)) := by
  refine (BitVec.getLsbD_append (x := g.extractLsb' 48 16) (y := g.extractLsb' 0 16)).trans ?_
  split <;> simp_all

end Sys2Proof.Machine
end

