-- ==== Sys2Proof/Laws/Memory.lean ====
section
/-! SUPPORT. What reading and writing memory do: a read after a write, the canonical form, and a load after a store. -/

namespace Sys2Proof.Machine

theorem Memory.read_erase (m : Memory) (a x : Nat) :
    (m.erase a).read x = if x = a then Memory.unlisted else m.read x := by
  induction m with
  | nil => simp [Memory.erase, Memory.read]
  | cons c cs ih =>
    unfold Memory.erase
    by_cases h : c.1 = a
    · rw [if_pos h, ih]
      unfold Memory.read
      by_cases hx : x = a
      · simp [hx]
      · rw [if_neg hx, if_neg hx, if_neg (by omega)]
        cases cs <;> rfl
    · rw [if_neg h]
      unfold Memory.read
      by_cases hc : c.1 = x
      · rw [if_pos hc, if_pos hc, if_neg (by omega)]
      · rw [if_neg hc, if_neg hc, ih]

theorem Memory.read_insert (m : Memory) (a x : Nat) (b : Byte) (h : m.read a = Memory.unlisted ∨ x ≠ a)
    (hm : ∀ c ∈ m, c.1 ≠ a) :
    (m.insert a b).read x = if x = a then b else m.read x := by
  induction m with
  | nil => simp [Memory.insert, Memory.read, eq_comm]
  | cons c cs ih =>
    have hc : c.1 ≠ a := hm c (by simp)
    unfold Memory.insert
    by_cases hlt : a < c.1
    · rw [if_pos hlt]
      by_cases hx : x = a
      · simp [Memory.read, hx]
      · rw [if_neg hx]
        conv_lhs => unfold Memory.read
        rw [if_neg (by simpa using Ne.symm hx)]
    · rw [if_neg hlt]
      unfold Memory.read
      by_cases hx : c.1 = x
      · rw [if_pos hx, if_pos hx, if_neg (by omega)]
      · rw [if_neg hx, if_neg hx]
        refine ih ?_ fun d hd => hm d (by simp [hd])
        rcases h with h | h
        · left
          simpa [Memory.read, hc] using h
        · exact .inr h

theorem Memory.mem_erase {m : Memory} {a : Nat} {c : Host.Cell} (h : c ∈ m.erase a) : c ∈ m ∧ c.1 ≠ a := by
  induction m with
  | nil => simp [Memory.erase] at h
  | cons d ds ih =>
    unfold Memory.erase at h
    by_cases hd : d.1 = a
    · rw [if_pos hd] at h
      exact ⟨List.mem_cons_of_mem _ (ih h).1, (ih h).2⟩
    · rw [if_neg hd] at h
      rcases List.mem_cons.mp h with rfl | h
      · exact ⟨by simp, hd⟩
      · exact ⟨List.mem_cons_of_mem _ (ih h).1, (ih h).2⟩

/-- A read after a write: the byte written at its address, the old byte everywhere else. -/
theorem Memory.read_write (m : Memory) (a x : Nat) (b : Byte) :
    (m.write a b).read x = if x = a then b else m.read x := by
  unfold Memory.write
  by_cases hb : b = Memory.unlisted
  · rw [if_pos hb, Memory.read_erase, hb]
  · rw [if_neg hb, Memory.read_insert _ _ _ _ (.inl (by simp [Memory.read_erase]))
      fun c hc => (Memory.mem_erase hc).2, Memory.read_erase]
    by_cases hx : x = a <;> simp [hx]

theorem Memory.wfFrom_mono {m : Memory} {lo lo' : Nat} (h : m.wfFrom lo = true) (hl : lo' ≤ lo) :
    m.wfFrom lo' = true := by
  cases m with
  | nil => rfl
  | cons c cs =>
    simp only [Memory.wfFrom, Bool.and_eq_true, decide_eq_true_eq] at h ⊢
    exact ⟨⟨⟨by omega, h.1.1.2⟩, h.1.2⟩, h.2⟩

theorem Memory.wfFrom_erase {m : Memory} {lo a : Nat} (h : m.wfFrom lo = true) :
    (m.erase a).wfFrom lo = true := by
  induction m generalizing lo with
  | nil => rfl
  | cons c cs ih =>
    simp only [Memory.wfFrom, Bool.and_eq_true, decide_eq_true_eq] at h
    unfold Memory.erase
    by_cases hc : c.1 = a
    · rw [if_pos hc]
      exact ih (Memory.wfFrom_mono h.2 (by omega))
    · rw [if_neg hc]
      simp only [Memory.wfFrom, Bool.and_eq_true, decide_eq_true_eq]
      exact ⟨h.1, ih h.2⟩

theorem Memory.wfFrom_insert {m : Memory} {lo a : Nat} {b : Byte} (h : m.wfFrom lo = true)
    (hm : ∀ c ∈ m, c.1 ≠ a) (hl : lo ≤ a) (ha : a < 2 ^ 32) (hb : b ≠ 0#8) :
    (m.insert a b).wfFrom lo = true := by
  induction m generalizing lo with
  | nil => simp [Memory.insert, Memory.wfFrom, hl, hb]; omega
  | cons c cs ih =>
    have hc : c.1 ≠ a := hm c (by simp)
    simp only [Memory.wfFrom, Bool.and_eq_true, decide_eq_true_eq] at h
    unfold Memory.insert
    by_cases hlt : a < c.1
    · rw [if_pos hlt]
      simp only [Memory.wfFrom, Bool.and_eq_true, decide_eq_true_eq]
      exact ⟨⟨⟨hl, ha⟩, by simpa using hb⟩, ⟨⟨by omega, h.1.1.2⟩, h.1.2⟩, h.2⟩
    · rw [if_neg hlt]
      simp only [Memory.wfFrom, Bool.and_eq_true, decide_eq_true_eq]
      exact ⟨h.1, ih h.2 (fun d hd => hm d (by simp [hd])) (by omega)⟩

/-- A write inside the address space keeps the canonical form. -/
theorem Memory.wf_write {m : Memory} {a : Nat} {b : Byte} (h : m.wf = true) (ha : a < 2 ^ 32) :
    (m.write a b).wf = true := by
  unfold Memory.write
  by_cases hb : b = Memory.unlisted
  · rw [if_pos hb]
    exact Memory.wfFrom_erase h
  · rw [if_neg hb]
    exact Memory.wfFrom_insert (Memory.wfFrom_erase h) (fun c hc => (Memory.mem_erase hc).2)
      (by omega) ha hb

/-- A store keeps the canonical form. -/
theorem Memory.wf_store {m : Memory} {a : Word} {n : Nat} {v : Word64} (h : m.wf = true) :
    (m.store a n v).wf = true := by
  induction n generalizing m a v with
  | zero => exact h
  | succ n ih => exact ih (Memory.wf_write h a.isLt)

/-- The address one past, `i` bytes on, is the address `i + 1` bytes on. -/
theorem addr_succ (a : Word) (i : Nat) : a + BitVec.ofNat 32 (i + 1) = a + 1#32 + BitVec.ofNat 32 i := by
  rw [BitVec.add_assoc]
  congr 1
  rw [show (1#32 : BitVec 32) = BitVec.ofNat 32 1 from rfl, ← BitVec.ofNat_add]
  congr 1
  omega

/-- A byte outside a store keeps its value. -/
theorem Memory.read_store_other {m : Memory} {a : Word} {n : Nat} {v : Word64} {x : Nat}
    (h : ∀ i < n, x ≠ (a + BitVec.ofNat 32 i).toNat) : (m.store a n v).read x = m.read x := by
  induction n generalizing m a v with
  | zero => rfl
  | succ n ih =>
    unfold Memory.store
    rw [ih, Memory.read_write, if_neg]
    · simpa using h 0 (by omega)
    · intro i hi
      have := h (i + 1) (by omega)
      rwa [addr_succ] at this

/-- A byte of a store reads as the byte of the number stored there. -/
theorem Memory.read_store_same {m : Memory} {a : Word} {n : Nat} {v : Word64} {i : Nat} (hi : i < n)
    (hn : n ≤ 2 ^ 32) :
    (m.store a n v).read (a + BitVec.ofNat 32 i).toNat = (v >>> (8 * i)).setWidth 8 := by
  induction n generalizing m a v i with
  | zero => omega
  | succ n ih =>
    unfold Memory.store
    cases i with
    | zero =>
      rw [Memory.read_store_other]
      · simp [Memory.read_write]
      · intro j hj
        simp only [BitVec.toNat_add, BitVec.toNat_ofNat]
        have := a.isLt
        omega
    | succ i =>
      rw [addr_succ a i]
      rw [ih (by omega) (by omega), ← BitVec.shiftRight_add, show 8 + 8 * i = 8 * (i + 1) by omega]

/-- Two memories that agree on `n` bytes from an address on load the same number there. -/
theorem Memory.load_congr {m m' : Memory} {a : Word} {n : Nat}
    (h : ∀ i < n, m.read (a + BitVec.ofNat 32 i).toNat = m'.read (a + BitVec.ofNat 32 i).toNat) :
    m.load a n = m'.load a n := by
  induction n generalizing a with
  | zero => rfl
  | succ n ih =>
    unfold Memory.load
    rw [show m.read a.toNat = m'.read a.toNat by simpa using h 0 (by omega), ih]
    intro i hi
    have := h (i + 1) (by omega)
    rwa [addr_succ] at this

/-- The bits of a load, where memory holds the bytes of a number. -/
theorem Memory.getLsbD_load {m : Memory} {a : Word} {n : Nat} {v : Word64} (hn : n ≤ 8)
    (h : ∀ i < n, m.read (a + BitVec.ofNat 32 i).toNat = (v >>> (8 * i)).setWidth 8) (j : Nat) :
    (m.load a n).getLsbD j = (decide (j < 8 * n) && v.getLsbD j) := by
  induction n generalizing a v j with
  | zero => simp [Memory.load]
  | succ n ih =>
    have h0 : m.read a.toNat = v.setWidth 8 := by simpa using h 0 (by omega)
    have ih' := ih (a := a + 1#32) (v := v >>> 8) (by omega) (fun i hi => by
      rw [← addr_succ, h (i + 1) (by omega), ← BitVec.shiftRight_add,
        show 8 + 8 * i = 8 * (i + 1) by omega])
    unfold Memory.load
    by_cases hj : j < 8
    · simp [h0, hj, show j < 64 by omega, show j < 8 * (n + 1) by omega]
    · simp only [BitVec.getLsbD_or, BitVec.getLsbD_setWidth, BitVec.getLsbD_shiftLeft, ih',
        BitVec.getLsbD_ushiftRight]
      rw [show m.read a.toNat = v.setWidth 8 from h0]
      simp only [BitVec.getLsbD_setWidth, hj, decide_false, Bool.false_and, Bool.and_false,
        Bool.not_false, Bool.and_true, Bool.false_or]
      rw [show 8 + (j - 8) = j by omega]
      by_cases hj2 : j < 8 * (n + 1)
      · simp [hj2, show j < 64 by omega, show j - 8 < 8 * n by omega]
      · simp [hj2, show ¬ j - 8 < 8 * n by omega]

/-- A load of 8 bytes after a store of 8 bytes at the same address gives the number stored. -/
theorem Memory.load_store (m : Memory) (a : Word) (v : Word64) : (m.store a 8 v).load a 8 = v := by
  apply BitVec.eq_of_getLsbD_eq
  intro j hj
  rw [Memory.getLsbD_load (v := v) (by omega) fun i hi => Memory.read_store_same hi (by omega)]
  simp [show j < 8 * 8 by omega]

end Sys2Proof.Machine
end

