-- ==== Sys2Proof/Laws/State.lean ====
section
/-! SUPPORT. What each named update does to each field of the state, one lemma per field. -/

namespace Sys2Proof.Machine

@[simp] theorem State.emit_cfg (s : State) (e : Event) : (s.emit e).cfg = s.cfg := rfl
@[simp] theorem State.emit_mem (s : State) (e : Event) : (s.emit e).mem = s.mem := rfl
@[simp] theorem State.emit_gw (s : State) (e : Event) : (s.emit e).gw = s.gw := rfl
@[simp] theorem State.emit_idtr (s : State) (e : Event) : (s.emit e).idtr = s.idtr := rfl
@[simp] theorem State.emit_loaded (s : State) (e : Event) : (s.emit e).loaded = s.loaded := rfl
@[simp] theorem State.emit_remapped (s : State) (e : Event) : (s.emit e).remapped = s.remapped := rfl
@[simp] theorem State.emit_running (s : State) (e : Event) : (s.emit e).running = s.running := rfl
@[simp] theorem State.emit_intFlag (s : State) (e : Event) : (s.emit e).intFlag = s.intFlag := rfl
@[simp] theorem State.emit_reg (s : State) (e : Event) : (s.emit e).reg = s.reg := rfl
@[simp] theorem State.emit_depth (s : State) (e : Event) : (s.emit e).depth = s.depth := rfl
@[simp] theorem State.emit_ifsave (s : State) (e : Event) : (s.emit e).ifsave = s.ifsave := rfl
@[simp] theorem State.emit_fault (s : State) (e : Event) : (s.emit e).fault = s.fault := rfl
@[simp] theorem State.emit_halted (s : State) (e : Event) : (s.emit e).halted = s.halted := rfl
@[simp] theorem State.emit_hist (s : State) (e : Event) : (s.emit e).hist = s.hist ++ [e] := rfl
@[simp] theorem State.emit_picP (s : State) (e : Event) : (s.emit e).picP = s.picP := rfl
@[simp] theorem State.emit_picS (s : State) (e : Event) : (s.emit e).picS = s.picS := rfl
@[simp] theorem State.emit_tick (s : State) (e : Event) : (s.emit e).tick = s.tick := rfl
@[simp] theorem State.emit_prog (s : State) (e : Event) : (s.emit e).prog = s.prog := rfl
@[simp] theorem State.emit_hostIndex (s : State) (e : Event) : (s.emit e).hostIndex = s.hostIndex := rfl
@[simp] theorem State.emit_hostPending (s : State) (e : Event) : (s.emit e).hostPending = s.hostPending := rfl
@[simp] theorem State.emit_frames (s : State) (e : Event) : (s.emit e).frames = s.frames := rfl
@[simp] theorem State.emit_sched (s : State) (e : Event) : (s.emit e).sched = s.sched := rfl
@[simp] theorem State.emit_cycle (s : State) (e : Event) : (s.emit e).cycle = s.cycle := rfl
@[simp] theorem State.emit_portIn (s : State) (e : Event) : (s.emit e).portIn = s.portIn := rfl
@[simp] theorem State.emit_draws (s : State) (e : Event) : (s.emit e).draws = s.draws := rfl

@[simp] theorem State.raise_cfg (s : State) (c : FaultCode) : (s.raise c).cfg = s.cfg := rfl
@[simp] theorem State.raise_mem (s : State) (c : FaultCode) : (s.raise c).mem = s.mem := rfl
@[simp] theorem State.raise_gw (s : State) (c : FaultCode) : (s.raise c).gw = s.gw := rfl
@[simp] theorem State.raise_idtr (s : State) (c : FaultCode) : (s.raise c).idtr = s.idtr := rfl
@[simp] theorem State.raise_loaded (s : State) (c : FaultCode) : (s.raise c).loaded = s.loaded := rfl
@[simp] theorem State.raise_remapped (s : State) (c : FaultCode) : (s.raise c).remapped = s.remapped := rfl
@[simp] theorem State.raise_running (s : State) (c : FaultCode) : (s.raise c).running = s.running := rfl
@[simp] theorem State.raise_intFlag (s : State) (c : FaultCode) : (s.raise c).intFlag = s.intFlag := rfl
@[simp] theorem State.raise_reg (s : State) (c : FaultCode) : (s.raise c).reg = s.reg := rfl
@[simp] theorem State.raise_depth (s : State) (c : FaultCode) : (s.raise c).depth = s.depth := rfl
@[simp] theorem State.raise_ifsave (s : State) (c : FaultCode) : (s.raise c).ifsave = s.ifsave := rfl
@[simp] theorem State.raise_fault (s : State) (c : FaultCode) : (s.raise c).fault = s.fault.or (some c) := rfl
@[simp] theorem State.raise_halted (s : State) (c : FaultCode) : (s.raise c).halted = s.halted := rfl
@[simp] theorem State.raise_hist (s : State) (c : FaultCode) : (s.raise c).hist = s.hist ++ [.fault c] := rfl
@[simp] theorem State.raise_picP (s : State) (c : FaultCode) : (s.raise c).picP = s.picP := rfl
@[simp] theorem State.raise_picS (s : State) (c : FaultCode) : (s.raise c).picS = s.picS := rfl
@[simp] theorem State.raise_tick (s : State) (c : FaultCode) : (s.raise c).tick = s.tick := rfl
@[simp] theorem State.raise_prog (s : State) (c : FaultCode) : (s.raise c).prog = s.prog := rfl
@[simp] theorem State.raise_hostIndex (s : State) (c : FaultCode) : (s.raise c).hostIndex = s.hostIndex := rfl
@[simp] theorem State.raise_hostPending (s : State) (c : FaultCode) :
    (s.raise c).hostPending = s.hostPending := rfl
@[simp] theorem State.raise_frames (s : State) (c : FaultCode) : (s.raise c).frames = s.frames := rfl
@[simp] theorem State.raise_sched (s : State) (c : FaultCode) : (s.raise c).sched = s.sched := rfl
@[simp] theorem State.raise_cycle (s : State) (c : FaultCode) : (s.raise c).cycle = s.cycle := rfl
@[simp] theorem State.raise_portIn (s : State) (c : FaultCode) : (s.raise c).portIn = s.portIn := rfl
@[simp] theorem State.raise_draws (s : State) (c : FaultCode) : (s.raise c).draws = s.draws := rfl

@[simp] theorem State.memWrite_cfg (s : State) (a : Word) (n : Nat) (v : Word64) :
    (s.memWrite a n v).cfg = s.cfg := rfl
@[simp] theorem State.memWrite_mem (s : State) (a : Word) (n : Nat) (v : Word64) :
    (s.memWrite a n v).mem = s.mem.store a n v := rfl
@[simp] theorem State.memWrite_gw (s : State) (a : Word) (n : Nat) (v : Word64) :
    (s.memWrite a n v).gw = s.gw := rfl
@[simp] theorem State.memWrite_idtr (s : State) (a : Word) (n : Nat) (v : Word64) :
    (s.memWrite a n v).idtr = s.idtr := rfl
@[simp] theorem State.memWrite_loaded (s : State) (a : Word) (n : Nat) (v : Word64) :
    (s.memWrite a n v).loaded = s.loaded := rfl
@[simp] theorem State.memWrite_remapped (s : State) (a : Word) (n : Nat) (v : Word64) :
    (s.memWrite a n v).remapped = s.remapped := rfl
@[simp] theorem State.memWrite_running (s : State) (a : Word) (n : Nat) (v : Word64) :
    (s.memWrite a n v).running = s.running := rfl
@[simp] theorem State.memWrite_intFlag (s : State) (a : Word) (n : Nat) (v : Word64) :
    (s.memWrite a n v).intFlag = s.intFlag := rfl
@[simp] theorem State.memWrite_reg (s : State) (a : Word) (n : Nat) (v : Word64) :
    (s.memWrite a n v).reg = s.reg := rfl
@[simp] theorem State.memWrite_depth (s : State) (a : Word) (n : Nat) (v : Word64) :
    (s.memWrite a n v).depth = s.depth := rfl
@[simp] theorem State.memWrite_ifsave (s : State) (a : Word) (n : Nat) (v : Word64) :
    (s.memWrite a n v).ifsave = s.ifsave := rfl
@[simp] theorem State.memWrite_fault (s : State) (a : Word) (n : Nat) (v : Word64) :
    (s.memWrite a n v).fault = s.fault := rfl
@[simp] theorem State.memWrite_halted (s : State) (a : Word) (n : Nat) (v : Word64) :
    (s.memWrite a n v).halted = s.halted := rfl
@[simp] theorem State.memWrite_hist (s : State) (a : Word) (n : Nat) (v : Word64) :
    (s.memWrite a n v).hist = s.hist ++ [.mw a n v] := rfl
@[simp] theorem State.memWrite_picP (s : State) (a : Word) (n : Nat) (v : Word64) :
    (s.memWrite a n v).picP = s.picP := rfl
@[simp] theorem State.memWrite_picS (s : State) (a : Word) (n : Nat) (v : Word64) :
    (s.memWrite a n v).picS = s.picS := rfl
@[simp] theorem State.memWrite_tick (s : State) (a : Word) (n : Nat) (v : Word64) :
    (s.memWrite a n v).tick = s.tick := rfl
@[simp] theorem State.memWrite_prog (s : State) (a : Word) (n : Nat) (v : Word64) :
    (s.memWrite a n v).prog = s.prog := rfl
@[simp] theorem State.memWrite_hostIndex (s : State) (a : Word) (n : Nat) (v : Word64) :
    (s.memWrite a n v).hostIndex = s.hostIndex := rfl
@[simp] theorem State.memWrite_hostPending (s : State) (a : Word) (n : Nat) (v : Word64) :
    (s.memWrite a n v).hostPending = s.hostPending := rfl
@[simp] theorem State.memWrite_frames (s : State) (a : Word) (n : Nat) (v : Word64) :
    (s.memWrite a n v).frames = s.frames := rfl
@[simp] theorem State.memWrite_sched (s : State) (a : Word) (n : Nat) (v : Word64) :
    (s.memWrite a n v).sched = s.sched := rfl
@[simp] theorem State.memWrite_cycle (s : State) (a : Word) (n : Nat) (v : Word64) :
    (s.memWrite a n v).cycle = s.cycle := rfl
@[simp] theorem State.memWrite_portIn (s : State) (a : Word) (n : Nat) (v : Word64) :
    (s.memWrite a n v).portIn = s.portIn := rfl
@[simp] theorem State.memWrite_draws (s : State) (a : Word) (n : Nat) (v : Word64) :
    (s.memWrite a n v).draws = s.draws := rfl

@[simp] theorem State.portWrite_cfg (s : State) (p : PortNum) (b : Byte) :
    (s.portWrite p b).cfg = s.cfg := rfl
@[simp] theorem State.portWrite_mem (s : State) (p : PortNum) (b : Byte) :
    (s.portWrite p b).mem = s.mem := rfl
@[simp] theorem State.portWrite_gw (s : State) (p : PortNum) (b : Byte) : (s.portWrite p b).gw = s.gw := rfl
@[simp] theorem State.portWrite_idtr (s : State) (p : PortNum) (b : Byte) :
    (s.portWrite p b).idtr = s.idtr := rfl
@[simp] theorem State.portWrite_loaded (s : State) (p : PortNum) (b : Byte) :
    (s.portWrite p b).loaded = s.loaded := rfl
@[simp] theorem State.portWrite_remapped (s : State) (p : PortNum) (b : Byte) :
    (s.portWrite p b).remapped = s.remapped := rfl
@[simp] theorem State.portWrite_running (s : State) (p : PortNum) (b : Byte) :
    (s.portWrite p b).running = s.running := rfl
@[simp] theorem State.portWrite_intFlag (s : State) (p : PortNum) (b : Byte) :
    (s.portWrite p b).intFlag = s.intFlag := rfl
@[simp] theorem State.portWrite_reg (s : State) (p : PortNum) (b : Byte) :
    (s.portWrite p b).reg = s.reg := rfl
@[simp] theorem State.portWrite_depth (s : State) (p : PortNum) (b : Byte) :
    (s.portWrite p b).depth = s.depth := rfl
@[simp] theorem State.portWrite_ifsave (s : State) (p : PortNum) (b : Byte) :
    (s.portWrite p b).ifsave = s.ifsave := rfl
@[simp] theorem State.portWrite_fault (s : State) (p : PortNum) (b : Byte) :
    (s.portWrite p b).fault = s.fault := rfl
@[simp] theorem State.portWrite_halted (s : State) (p : PortNum) (b : Byte) :
    (s.portWrite p b).halted = s.halted := rfl
@[simp] theorem State.portWrite_hist (s : State) (p : PortNum) (b : Byte) :
    (s.portWrite p b).hist = s.hist ++ [.pw p b] := rfl
@[simp] theorem State.portWrite_picP (s : State) (p : PortNum) (b : Byte) :
    (s.portWrite p b).picP = if p = Config.picPCmd then s.picP.command b else if p = Config.picPData then s.picP.data b else s.picP := rfl
@[simp] theorem State.portWrite_picS (s : State) (p : PortNum) (b : Byte) :
    (s.portWrite p b).picS = if p = Config.picSCmd then s.picS.command b else if p = Config.picSData then s.picS.data b else s.picS := rfl
@[simp] theorem State.portWrite_tick (s : State) (p : PortNum) (b : Byte) :
    (s.portWrite p b).tick = s.tick := rfl
@[simp] theorem State.portWrite_prog (s : State) (p : PortNum) (b : Byte) :
    (s.portWrite p b).prog = s.prog := rfl
@[simp] theorem State.portWrite_hostIndex (s : State) (p : PortNum) (b : Byte) :
    (s.portWrite p b).hostIndex = s.hostIndex := rfl
@[simp] theorem State.portWrite_hostPending (s : State) (p : PortNum) (b : Byte) :
    (s.portWrite p b).hostPending = s.hostPending := rfl
@[simp] theorem State.portWrite_frames (s : State) (p : PortNum) (b : Byte) :
    (s.portWrite p b).frames = s.frames := rfl
@[simp] theorem State.portWrite_sched (s : State) (p : PortNum) (b : Byte) :
    (s.portWrite p b).sched = s.sched := rfl
@[simp] theorem State.portWrite_cycle (s : State) (p : PortNum) (b : Byte) :
    (s.portWrite p b).cycle = s.cycle := rfl
@[simp] theorem State.portWrite_portIn (s : State) (p : PortNum) (b : Byte) :
    (s.portWrite p b).portIn = s.portIn := rfl
@[simp] theorem State.portWrite_draws (s : State) (p : PortNum) (b : Byte) :
    (s.portWrite p b).draws = s.draws := rfl

@[simp] theorem State.portRead_cfg (s : State) (p : PortNum) : (s.portRead p).cfg = s.cfg := rfl
@[simp] theorem State.portRead_mem (s : State) (p : PortNum) : (s.portRead p).mem = s.mem := rfl
@[simp] theorem State.portRead_gw (s : State) (p : PortNum) : (s.portRead p).gw = s.gw := rfl
@[simp] theorem State.portRead_idtr (s : State) (p : PortNum) : (s.portRead p).idtr = s.idtr := rfl
@[simp] theorem State.portRead_loaded (s : State) (p : PortNum) : (s.portRead p).loaded = s.loaded := rfl
@[simp] theorem State.portRead_remapped (s : State) (p : PortNum) :
    (s.portRead p).remapped = s.remapped := rfl
@[simp] theorem State.portRead_running (s : State) (p : PortNum) : (s.portRead p).running = s.running := rfl
@[simp] theorem State.portRead_intFlag (s : State) (p : PortNum) : (s.portRead p).intFlag = s.intFlag := rfl
@[simp] theorem State.portRead_reg (s : State) (p : PortNum) : (s.portRead p).reg = s.reg := rfl
@[simp] theorem State.portRead_depth (s : State) (p : PortNum) : (s.portRead p).depth = s.depth := rfl
@[simp] theorem State.portRead_ifsave (s : State) (p : PortNum) : (s.portRead p).ifsave = s.ifsave := rfl
@[simp] theorem State.portRead_fault (s : State) (p : PortNum) : (s.portRead p).fault = s.fault := rfl
@[simp] theorem State.portRead_halted (s : State) (p : PortNum) : (s.portRead p).halted = s.halted := rfl
@[simp] theorem State.portRead_hist (s : State) (p : PortNum) :
    (s.portRead p).hist = s.hist ++ [.pr p s.drawByte] := rfl
@[simp] theorem State.portRead_picP (s : State) (p : PortNum) : (s.portRead p).picP = s.picP := rfl
@[simp] theorem State.portRead_picS (s : State) (p : PortNum) : (s.portRead p).picS = s.picS := rfl
@[simp] theorem State.portRead_tick (s : State) (p : PortNum) : (s.portRead p).tick = s.tick := rfl
@[simp] theorem State.portRead_prog (s : State) (p : PortNum) : (s.portRead p).prog = s.prog := rfl
@[simp] theorem State.portRead_hostIndex (s : State) (p : PortNum) :
    (s.portRead p).hostIndex = s.hostIndex := rfl
@[simp] theorem State.portRead_hostPending (s : State) (p : PortNum) :
    (s.portRead p).hostPending = s.hostPending := rfl
@[simp] theorem State.portRead_frames (s : State) (p : PortNum) : (s.portRead p).frames = s.frames := rfl
@[simp] theorem State.portRead_sched (s : State) (p : PortNum) : (s.portRead p).sched = s.sched := rfl
@[simp] theorem State.portRead_cycle (s : State) (p : PortNum) : (s.portRead p).cycle = s.cycle := rfl
@[simp] theorem State.portRead_portIn (s : State) (p : PortNum) : (s.portRead p).portIn = s.portIn.tail := rfl
@[simp] theorem State.portRead_draws (s : State) (p : PortNum) :
    (s.portRead p).draws = if s.portIn.isEmpty then s.draws + 1 else s.draws := rfl

@[simp] theorem State.screenPrint_cfg (s : State) (t : Text) : (s.screenPrint t).cfg = s.cfg := rfl
@[simp] theorem State.screenPrint_mem (s : State) (t : Text) : (s.screenPrint t).mem = s.mem := rfl
@[simp] theorem State.screenPrint_gw (s : State) (t : Text) : (s.screenPrint t).gw = s.gw := rfl
@[simp] theorem State.screenPrint_idtr (s : State) (t : Text) : (s.screenPrint t).idtr = s.idtr := rfl
@[simp] theorem State.screenPrint_loaded (s : State) (t : Text) : (s.screenPrint t).loaded = s.loaded := rfl
@[simp] theorem State.screenPrint_remapped (s : State) (t : Text) :
    (s.screenPrint t).remapped = s.remapped := rfl
@[simp] theorem State.screenPrint_running (s : State) (t : Text) :
    (s.screenPrint t).running = s.running := rfl
@[simp] theorem State.screenPrint_intFlag (s : State) (t : Text) :
    (s.screenPrint t).intFlag = s.intFlag := rfl
@[simp] theorem State.screenPrint_reg (s : State) (t : Text) : (s.screenPrint t).reg = s.reg := rfl
@[simp] theorem State.screenPrint_depth (s : State) (t : Text) : (s.screenPrint t).depth = s.depth := rfl
@[simp] theorem State.screenPrint_ifsave (s : State) (t : Text) : (s.screenPrint t).ifsave = s.ifsave := rfl
@[simp] theorem State.screenPrint_fault (s : State) (t : Text) : (s.screenPrint t).fault = s.fault := rfl
@[simp] theorem State.screenPrint_halted (s : State) (t : Text) : (s.screenPrint t).halted = s.halted := rfl
@[simp] theorem State.screenPrint_hist (s : State) (t : Text) :
    (s.screenPrint t).hist = s.hist ++ [.sp t] := rfl
@[simp] theorem State.screenPrint_picP (s : State) (t : Text) : (s.screenPrint t).picP = s.picP := rfl
@[simp] theorem State.screenPrint_picS (s : State) (t : Text) : (s.screenPrint t).picS = s.picS := rfl
@[simp] theorem State.screenPrint_tick (s : State) (t : Text) : (s.screenPrint t).tick = s.tick := rfl
@[simp] theorem State.screenPrint_prog (s : State) (t : Text) : (s.screenPrint t).prog = s.prog := rfl
@[simp] theorem State.screenPrint_hostIndex (s : State) (t : Text) :
    (s.screenPrint t).hostIndex = s.hostIndex := rfl
@[simp] theorem State.screenPrint_hostPending (s : State) (t : Text) :
    (s.screenPrint t).hostPending = s.hostPending := rfl
@[simp] theorem State.screenPrint_frames (s : State) (t : Text) : (s.screenPrint t).frames = s.frames := rfl
@[simp] theorem State.screenPrint_sched (s : State) (t : Text) : (s.screenPrint t).sched = s.sched := rfl
@[simp] theorem State.screenPrint_cycle (s : State) (t : Text) : (s.screenPrint t).cycle = s.cycle := rfl
@[simp] theorem State.screenPrint_portIn (s : State) (t : Text) : (s.screenPrint t).portIn = s.portIn := rfl
@[simp] theorem State.screenPrint_draws (s : State) (t : Text) : (s.screenPrint t).draws = s.draws := rfl

@[simp] theorem State.setReg_cfg (s : State) (k : Fin 16) (h : Word) : (s.setReg k h).cfg = s.cfg := rfl
@[simp] theorem State.setReg_mem (s : State) (k : Fin 16) (h : Word) : (s.setReg k h).mem = s.mem := rfl
@[simp] theorem State.setReg_gw (s : State) (k : Fin 16) (h : Word) : (s.setReg k h).gw = s.gw := rfl
@[simp] theorem State.setReg_idtr (s : State) (k : Fin 16) (h : Word) : (s.setReg k h).idtr = s.idtr := rfl
@[simp] theorem State.setReg_loaded (s : State) (k : Fin 16) (h : Word) :
    (s.setReg k h).loaded = s.loaded := rfl
@[simp] theorem State.setReg_remapped (s : State) (k : Fin 16) (h : Word) :
    (s.setReg k h).remapped = s.remapped := rfl
@[simp] theorem State.setReg_running (s : State) (k : Fin 16) (h : Word) :
    (s.setReg k h).running = s.running := rfl
@[simp] theorem State.setReg_intFlag (s : State) (k : Fin 16) (h : Word) :
    (s.setReg k h).intFlag = s.intFlag := rfl
@[simp] theorem State.setReg_reg (s : State) (k : Fin 16) (h : Word) :
    (s.setReg k h).reg = s.reg.set k h := rfl
@[simp] theorem State.setReg_depth (s : State) (k : Fin 16) (h : Word) : (s.setReg k h).depth = s.depth := rfl
@[simp] theorem State.setReg_ifsave (s : State) (k : Fin 16) (h : Word) :
    (s.setReg k h).ifsave = s.ifsave := rfl
@[simp] theorem State.setReg_fault (s : State) (k : Fin 16) (h : Word) : (s.setReg k h).fault = s.fault := rfl
@[simp] theorem State.setReg_halted (s : State) (k : Fin 16) (h : Word) :
    (s.setReg k h).halted = s.halted := rfl
@[simp] theorem State.setReg_hist (s : State) (k : Fin 16) (h : Word) : (s.setReg k h).hist = s.hist := rfl
@[simp] theorem State.setReg_picP (s : State) (k : Fin 16) (h : Word) : (s.setReg k h).picP = s.picP := rfl
@[simp] theorem State.setReg_picS (s : State) (k : Fin 16) (h : Word) : (s.setReg k h).picS = s.picS := rfl
@[simp] theorem State.setReg_tick (s : State) (k : Fin 16) (h : Word) : (s.setReg k h).tick = s.tick := rfl
@[simp] theorem State.setReg_prog (s : State) (k : Fin 16) (h : Word) : (s.setReg k h).prog = s.prog := rfl
@[simp] theorem State.setReg_hostIndex (s : State) (k : Fin 16) (h : Word) :
    (s.setReg k h).hostIndex = s.hostIndex := rfl
@[simp] theorem State.setReg_hostPending (s : State) (k : Fin 16) (h : Word) :
    (s.setReg k h).hostPending = s.hostPending := rfl
@[simp] theorem State.setReg_frames (s : State) (k : Fin 16) (h : Word) :
    (s.setReg k h).frames = s.frames := rfl
@[simp] theorem State.setReg_sched (s : State) (k : Fin 16) (h : Word) : (s.setReg k h).sched = s.sched := rfl
@[simp] theorem State.setReg_cycle (s : State) (k : Fin 16) (h : Word) : (s.setReg k h).cycle = s.cycle := rfl
@[simp] theorem State.setReg_portIn (s : State) (k : Fin 16) (h : Word) :
    (s.setReg k h).portIn = s.portIn := rfl
@[simp] theorem State.setReg_draws (s : State) (k : Fin 16) (h : Word) : (s.setReg k h).draws = s.draws := rfl

@[simp] theorem State.enterLevel_cfg (s : State) : (s.enterLevel).cfg = s.cfg := rfl
@[simp] theorem State.enterLevel_mem (s : State) : (s.enterLevel).mem = s.mem := rfl
@[simp] theorem State.enterLevel_gw (s : State) : (s.enterLevel).gw = s.gw := rfl
@[simp] theorem State.enterLevel_idtr (s : State) : (s.enterLevel).idtr = s.idtr := rfl
@[simp] theorem State.enterLevel_loaded (s : State) : (s.enterLevel).loaded = s.loaded := rfl
@[simp] theorem State.enterLevel_remapped (s : State) : (s.enterLevel).remapped = s.remapped := rfl
@[simp] theorem State.enterLevel_running (s : State) : (s.enterLevel).running = s.running := rfl
@[simp] theorem State.enterLevel_intFlag (s : State) : (s.enterLevel).intFlag = false := rfl
@[simp] theorem State.enterLevel_reg (s : State) : (s.enterLevel).reg = s.reg := rfl
@[simp] theorem State.enterLevel_depth (s : State) : (s.enterLevel).depth = s.depth + 1 := rfl
@[simp] theorem State.enterLevel_ifsave (s : State) : (s.enterLevel).ifsave = s.intFlag :: s.ifsave := rfl
@[simp] theorem State.enterLevel_fault (s : State) : (s.enterLevel).fault = s.fault := rfl
@[simp] theorem State.enterLevel_halted (s : State) : (s.enterLevel).halted = s.halted := rfl
@[simp] theorem State.enterLevel_hist (s : State) : (s.enterLevel).hist = s.hist := rfl
@[simp] theorem State.enterLevel_picP (s : State) : (s.enterLevel).picP = s.picP := rfl
@[simp] theorem State.enterLevel_picS (s : State) : (s.enterLevel).picS = s.picS := rfl
@[simp] theorem State.enterLevel_tick (s : State) : (s.enterLevel).tick = s.tick := rfl
@[simp] theorem State.enterLevel_prog (s : State) : (s.enterLevel).prog = s.prog := rfl
@[simp] theorem State.enterLevel_hostIndex (s : State) : (s.enterLevel).hostIndex = s.hostIndex := rfl
@[simp] theorem State.enterLevel_hostPending (s : State) : (s.enterLevel).hostPending = s.hostPending := rfl
@[simp] theorem State.enterLevel_frames (s : State) : (s.enterLevel).frames = s.frames := rfl
@[simp] theorem State.enterLevel_sched (s : State) : (s.enterLevel).sched = s.sched := rfl
@[simp] theorem State.enterLevel_cycle (s : State) : (s.enterLevel).cycle = s.cycle := rfl
@[simp] theorem State.enterLevel_portIn (s : State) : (s.enterLevel).portIn = s.portIn := rfl
@[simp] theorem State.enterLevel_draws (s : State) : (s.enterLevel).draws = s.draws := rfl

@[simp] theorem State.leaveLevel_cfg (s : State) : (s.leaveLevel).cfg = s.cfg := rfl
@[simp] theorem State.leaveLevel_mem (s : State) : (s.leaveLevel).mem = s.mem := rfl
@[simp] theorem State.leaveLevel_gw (s : State) : (s.leaveLevel).gw = s.gw := rfl
@[simp] theorem State.leaveLevel_idtr (s : State) : (s.leaveLevel).idtr = s.idtr := rfl
@[simp] theorem State.leaveLevel_loaded (s : State) : (s.leaveLevel).loaded = s.loaded := rfl
@[simp] theorem State.leaveLevel_remapped (s : State) : (s.leaveLevel).remapped = s.remapped := rfl
@[simp] theorem State.leaveLevel_running (s : State) : (s.leaveLevel).running = s.running := rfl
@[simp] theorem State.leaveLevel_intFlag (s : State) :
    (s.leaveLevel).intFlag = s.ifsave.headD s.intFlag := rfl
@[simp] theorem State.leaveLevel_reg (s : State) : (s.leaveLevel).reg = s.reg := rfl
@[simp] theorem State.leaveLevel_depth (s : State) : (s.leaveLevel).depth = s.depth - 1 := rfl
@[simp] theorem State.leaveLevel_ifsave (s : State) : (s.leaveLevel).ifsave = s.ifsave.tail := rfl
@[simp] theorem State.leaveLevel_fault (s : State) : (s.leaveLevel).fault = s.fault := rfl
@[simp] theorem State.leaveLevel_halted (s : State) : (s.leaveLevel).halted = s.halted := rfl
@[simp] theorem State.leaveLevel_hist (s : State) : (s.leaveLevel).hist = s.hist := rfl
@[simp] theorem State.leaveLevel_picP (s : State) : (s.leaveLevel).picP = s.picP := rfl
@[simp] theorem State.leaveLevel_picS (s : State) : (s.leaveLevel).picS = s.picS := rfl
@[simp] theorem State.leaveLevel_tick (s : State) : (s.leaveLevel).tick = s.tick := rfl
@[simp] theorem State.leaveLevel_prog (s : State) : (s.leaveLevel).prog = s.prog := rfl
@[simp] theorem State.leaveLevel_hostIndex (s : State) : (s.leaveLevel).hostIndex = s.hostIndex := rfl
@[simp] theorem State.leaveLevel_hostPending (s : State) : (s.leaveLevel).hostPending = s.hostPending := rfl
@[simp] theorem State.leaveLevel_frames (s : State) : (s.leaveLevel).frames = s.frames := rfl
@[simp] theorem State.leaveLevel_sched (s : State) : (s.leaveLevel).sched = s.sched := rfl
@[simp] theorem State.leaveLevel_cycle (s : State) : (s.leaveLevel).cycle = s.cycle := rfl
@[simp] theorem State.leaveLevel_portIn (s : State) : (s.leaveLevel).portIn = s.portIn := rfl
@[simp] theorem State.leaveLevel_draws (s : State) : (s.leaveLevel).draws = s.draws := rfl

@[simp] theorem State.trapEnter_cfg (s : State) (v w : VectorNo) (e : Option Word) (cpu : CpuRegs) :
    (s.trapEnter v w e cpu).cfg = s.cfg := rfl
@[simp] theorem State.trapEnter_mem (s : State) (v w : VectorNo) (e : Option Word) (cpu : CpuRegs) :
    (s.trapEnter v w e cpu).mem = s.mem := rfl
@[simp] theorem State.trapEnter_gw (s : State) (v w : VectorNo) (e : Option Word) (cpu : CpuRegs) :
    (s.trapEnter v w e cpu).gw = s.gw := rfl
@[simp] theorem State.trapEnter_idtr (s : State) (v w : VectorNo) (e : Option Word) (cpu : CpuRegs) :
    (s.trapEnter v w e cpu).idtr = s.idtr := rfl
@[simp] theorem State.trapEnter_loaded (s : State) (v w : VectorNo) (e : Option Word) (cpu : CpuRegs) :
    (s.trapEnter v w e cpu).loaded = s.loaded := rfl
@[simp] theorem State.trapEnter_remapped (s : State) (v w : VectorNo) (e : Option Word) (cpu : CpuRegs) :
    (s.trapEnter v w e cpu).remapped = s.remapped := rfl
@[simp] theorem State.trapEnter_running (s : State) (v w : VectorNo) (e : Option Word) (cpu : CpuRegs) :
    (s.trapEnter v w e cpu).running = s.running := rfl
@[simp] theorem State.trapEnter_intFlag (s : State) (v w : VectorNo) (e : Option Word) (cpu : CpuRegs) :
    (s.trapEnter v w e cpu).intFlag = false := rfl
@[simp] theorem State.trapEnter_reg (s : State) (v w : VectorNo) (e : Option Word) (cpu : CpuRegs) :
    (s.trapEnter v w e cpu).reg = s.reg := rfl
@[simp] theorem State.trapEnter_depth (s : State) (v w : VectorNo) (e : Option Word) (cpu : CpuRegs) :
    (s.trapEnter v w e cpu).depth = s.depth + 1 := rfl
@[simp] theorem State.trapEnter_ifsave (s : State) (v w : VectorNo) (e : Option Word) (cpu : CpuRegs) :
    (s.trapEnter v w e cpu).ifsave = s.intFlag :: s.ifsave := rfl
@[simp] theorem State.trapEnter_fault (s : State) (v w : VectorNo) (e : Option Word) (cpu : CpuRegs) :
    (s.trapEnter v w e cpu).fault = s.fault := rfl
@[simp] theorem State.trapEnter_halted (s : State) (v w : VectorNo) (e : Option Word) (cpu : CpuRegs) :
    (s.trapEnter v w e cpu).halted = s.halted := rfl
@[simp] theorem State.trapEnter_hist (s : State) (v w : VectorNo) (e : Option Word) (cpu : CpuRegs) :
    (s.trapEnter v w e cpu).hist = s.hist ++ [.dlv v w] := rfl
@[simp] theorem State.trapEnter_picP (s : State) (v w : VectorNo) (e : Option Word) (cpu : CpuRegs) :
    (s.trapEnter v w e cpu).picP = s.picP := rfl
@[simp] theorem State.trapEnter_picS (s : State) (v w : VectorNo) (e : Option Word) (cpu : CpuRegs) :
    (s.trapEnter v w e cpu).picS = s.picS := rfl
@[simp] theorem State.trapEnter_tick (s : State) (v w : VectorNo) (e : Option Word) (cpu : CpuRegs) :
    (s.trapEnter v w e cpu).tick = s.tick := rfl
@[simp] theorem State.trapEnter_prog (s : State) (v w : VectorNo) (e : Option Word) (cpu : CpuRegs) :
    (s.trapEnter v w e cpu).prog = s.prog := rfl
@[simp] theorem State.trapEnter_hostIndex (s : State) (v w : VectorNo) (e : Option Word) (cpu : CpuRegs) :
    (s.trapEnter v w e cpu).hostIndex = s.hostIndex := rfl
@[simp] theorem State.trapEnter_hostPending (s : State) (v w : VectorNo) (e : Option Word) (cpu : CpuRegs) :
    (s.trapEnter v w e cpu).hostPending = s.hostPending := rfl
@[simp] theorem State.trapEnter_frames (s : State) (v w : VectorNo) (e : Option Word) (cpu : CpuRegs) :
    (s.trapEnter v w e cpu).frames = .tramp cpu (.issue (snapshotOf w e cpu)) :: s.frames := rfl
@[simp] theorem State.trapEnter_sched (s : State) (v w : VectorNo) (e : Option Word) (cpu : CpuRegs) :
    (s.trapEnter v w e cpu).sched = s.sched := rfl
@[simp] theorem State.trapEnter_cycle (s : State) (v w : VectorNo) (e : Option Word) (cpu : CpuRegs) :
    (s.trapEnter v w e cpu).cycle = s.cycle := rfl
@[simp] theorem State.trapEnter_portIn (s : State) (v w : VectorNo) (e : Option Word) (cpu : CpuRegs) :
    (s.trapEnter v w e cpu).portIn = s.portIn := rfl
@[simp] theorem State.trapEnter_draws (s : State) (v w : VectorNo) (e : Option Word) (cpu : CpuRegs) :
    (s.trapEnter v w e cpu).draws = s.draws := rfl

@[simp] theorem State.trapReturn_cfg (s : State) : (s.trapReturn).cfg = s.cfg := rfl
@[simp] theorem State.trapReturn_mem (s : State) : (s.trapReturn).mem = s.mem := rfl
@[simp] theorem State.trapReturn_gw (s : State) : (s.trapReturn).gw = s.gw := rfl
@[simp] theorem State.trapReturn_idtr (s : State) : (s.trapReturn).idtr = s.idtr := rfl
@[simp] theorem State.trapReturn_loaded (s : State) : (s.trapReturn).loaded = s.loaded := rfl
@[simp] theorem State.trapReturn_remapped (s : State) : (s.trapReturn).remapped = s.remapped := rfl
@[simp] theorem State.trapReturn_running (s : State) : (s.trapReturn).running = s.running := rfl
@[simp] theorem State.trapReturn_intFlag (s : State) :
    (s.trapReturn).intFlag = s.ifsave.headD s.intFlag := rfl
@[simp] theorem State.trapReturn_reg (s : State) : (s.trapReturn).reg = s.reg := rfl
@[simp] theorem State.trapReturn_depth (s : State) : (s.trapReturn).depth = s.depth - 1 := rfl
@[simp] theorem State.trapReturn_ifsave (s : State) : (s.trapReturn).ifsave = s.ifsave.tail := rfl
@[simp] theorem State.trapReturn_fault (s : State) : (s.trapReturn).fault = s.fault := rfl
@[simp] theorem State.trapReturn_halted (s : State) : (s.trapReturn).halted = s.halted := rfl
@[simp] theorem State.trapReturn_hist (s : State) : (s.trapReturn).hist = s.hist ++ [.iret] := rfl
@[simp] theorem State.trapReturn_picP (s : State) : (s.trapReturn).picP = s.picP := rfl
@[simp] theorem State.trapReturn_picS (s : State) : (s.trapReturn).picS = s.picS := rfl
@[simp] theorem State.trapReturn_tick (s : State) : (s.trapReturn).tick = s.tick := rfl
@[simp] theorem State.trapReturn_prog (s : State) : (s.trapReturn).prog = s.prog := rfl
@[simp] theorem State.trapReturn_hostIndex (s : State) : (s.trapReturn).hostIndex = s.hostIndex := rfl
@[simp] theorem State.trapReturn_hostPending (s : State) : (s.trapReturn).hostPending = s.hostPending := rfl
@[simp] theorem State.trapReturn_frames (s : State) : (s.trapReturn).frames = s.frames.tail := rfl
@[simp] theorem State.trapReturn_sched (s : State) : (s.trapReturn).sched = s.sched := rfl
@[simp] theorem State.trapReturn_cycle (s : State) : (s.trapReturn).cycle = s.cycle := rfl
@[simp] theorem State.trapReturn_portIn (s : State) : (s.trapReturn).portIn = s.portIn := rfl
@[simp] theorem State.trapReturn_draws (s : State) : (s.trapReturn).draws = s.draws := rfl

@[simp] theorem State.dispatchReturn_cfg (s : State) : (s.dispatchReturn).cfg = s.cfg := rfl
@[simp] theorem State.dispatchReturn_mem (s : State) : (s.dispatchReturn).mem = s.mem := rfl
@[simp] theorem State.dispatchReturn_gw (s : State) : (s.dispatchReturn).gw = s.gw := rfl
@[simp] theorem State.dispatchReturn_idtr (s : State) : (s.dispatchReturn).idtr = s.idtr := rfl
@[simp] theorem State.dispatchReturn_loaded (s : State) : (s.dispatchReturn).loaded = s.loaded := rfl
@[simp] theorem State.dispatchReturn_remapped (s : State) : (s.dispatchReturn).remapped = s.remapped := rfl
@[simp] theorem State.dispatchReturn_running (s : State) : (s.dispatchReturn).running = s.running := rfl
@[simp] theorem State.dispatchReturn_intFlag (s : State) : (s.dispatchReturn).intFlag = s.intFlag := rfl
@[simp] theorem State.dispatchReturn_reg (s : State) : (s.dispatchReturn).reg = s.reg := rfl
@[simp] theorem State.dispatchReturn_depth (s : State) : (s.dispatchReturn).depth = s.depth := rfl
@[simp] theorem State.dispatchReturn_ifsave (s : State) : (s.dispatchReturn).ifsave = s.ifsave := rfl
@[simp] theorem State.dispatchReturn_fault (s : State) : (s.dispatchReturn).fault = s.fault := rfl
@[simp] theorem State.dispatchReturn_halted (s : State) : (s.dispatchReturn).halted = s.halted := rfl
@[simp] theorem State.dispatchReturn_hist (s : State) : (s.dispatchReturn).hist = s.hist := rfl
@[simp] theorem State.dispatchReturn_picP (s : State) : (s.dispatchReturn).picP = s.picP := rfl
@[simp] theorem State.dispatchReturn_picS (s : State) : (s.dispatchReturn).picS = s.picS := rfl
@[simp] theorem State.dispatchReturn_tick (s : State) : (s.dispatchReturn).tick = s.tick := rfl
@[simp] theorem State.dispatchReturn_prog (s : State) : (s.dispatchReturn).prog = s.prog := rfl
@[simp] theorem State.dispatchReturn_hostIndex (s : State) : (s.dispatchReturn).hostIndex = s.hostIndex := rfl
@[simp] theorem State.dispatchReturn_hostPending (s : State) : (s.dispatchReturn).hostPending = s.hostPending := rfl
@[simp] theorem State.dispatchReturn_frames (s : State) : (s.dispatchReturn).frames = endDispatch s.frames := rfl
@[simp] theorem State.dispatchReturn_sched (s : State) : (s.dispatchReturn).sched = s.sched := rfl
@[simp] theorem State.dispatchReturn_cycle (s : State) : (s.dispatchReturn).cycle = s.cycle := rfl
@[simp] theorem State.dispatchReturn_portIn (s : State) : (s.dispatchReturn).portIn = s.portIn := rfl
@[simp] theorem State.dispatchReturn_draws (s : State) : (s.dispatchReturn).draws = s.draws := rfl

@[simp] theorem State.clientReturn_cfg (s : State) (k : Line) : (s.clientReturn k).cfg = s.cfg := rfl
@[simp] theorem State.clientReturn_mem (s : State) (k : Line) : (s.clientReturn k).mem = s.mem := rfl
@[simp] theorem State.clientReturn_gw (s : State) (k : Line) : (s.clientReturn k).gw = s.gw := rfl
@[simp] theorem State.clientReturn_idtr (s : State) (k : Line) : (s.clientReturn k).idtr = s.idtr := rfl
@[simp] theorem State.clientReturn_loaded (s : State) (k : Line) : (s.clientReturn k).loaded = s.loaded := rfl
@[simp] theorem State.clientReturn_remapped (s : State) (k : Line) :
    (s.clientReturn k).remapped = s.remapped := rfl
@[simp] theorem State.clientReturn_running (s : State) (k : Line) :
    (s.clientReturn k).running = s.running := rfl
@[simp] theorem State.clientReturn_intFlag (s : State) (k : Line) :
    (s.clientReturn k).intFlag = s.intFlag := rfl
@[simp] theorem State.clientReturn_reg (s : State) (k : Line) : (s.clientReturn k).reg = s.reg := rfl
@[simp] theorem State.clientReturn_depth (s : State) (k : Line) : (s.clientReturn k).depth = s.depth := rfl
@[simp] theorem State.clientReturn_ifsave (s : State) (k : Line) : (s.clientReturn k).ifsave = s.ifsave := rfl
@[simp] theorem State.clientReturn_fault (s : State) (k : Line) : (s.clientReturn k).fault = s.fault := rfl
@[simp] theorem State.clientReturn_halted (s : State) (k : Line) : (s.clientReturn k).halted = s.halted := rfl
@[simp] theorem State.clientReturn_hist (s : State) (k : Line) :
    (s.clientReturn k).hist = s.hist ++ [.ret k] := rfl
@[simp] theorem State.clientReturn_picP (s : State) (k : Line) : (s.clientReturn k).picP = s.picP := rfl
@[simp] theorem State.clientReturn_picS (s : State) (k : Line) : (s.clientReturn k).picS = s.picS := rfl
@[simp] theorem State.clientReturn_tick (s : State) (k : Line) : (s.clientReturn k).tick = s.tick := rfl
@[simp] theorem State.clientReturn_prog (s : State) (k : Line) : (s.clientReturn k).prog = s.prog := rfl
@[simp] theorem State.clientReturn_hostIndex (s : State) (k : Line) :
    (s.clientReturn k).hostIndex = s.hostIndex := rfl
@[simp] theorem State.clientReturn_hostPending (s : State) (k : Line) :
    (s.clientReturn k).hostPending = s.hostPending := rfl
@[simp] theorem State.clientReturn_frames (s : State) (k : Line) :
    (s.clientReturn k).frames = endDispatch s.frames.tail := rfl
@[simp] theorem State.clientReturn_sched (s : State) (k : Line) : (s.clientReturn k).sched = s.sched := rfl
@[simp] theorem State.clientReturn_cycle (s : State) (k : Line) : (s.clientReturn k).cycle = s.cycle := rfl
@[simp] theorem State.clientReturn_portIn (s : State) (k : Line) : (s.clientReturn k).portIn = s.portIn := rfl
@[simp] theorem State.clientReturn_draws (s : State) (k : Line) : (s.clientReturn k).draws = s.draws := rfl

@[simp] theorem State.setStage_cfg (s : State) (k : Line) (h : Word) (g : ClientStage) :
    (s.setStage k h g).cfg = s.cfg := rfl
@[simp] theorem State.setStage_mem (s : State) (k : Line) (h : Word) (g : ClientStage) :
    (s.setStage k h g).mem = s.mem := rfl
@[simp] theorem State.setStage_gw (s : State) (k : Line) (h : Word) (g : ClientStage) :
    (s.setStage k h g).gw = s.gw := rfl
@[simp] theorem State.setStage_idtr (s : State) (k : Line) (h : Word) (g : ClientStage) :
    (s.setStage k h g).idtr = s.idtr := rfl
@[simp] theorem State.setStage_loaded (s : State) (k : Line) (h : Word) (g : ClientStage) :
    (s.setStage k h g).loaded = s.loaded := rfl
@[simp] theorem State.setStage_remapped (s : State) (k : Line) (h : Word) (g : ClientStage) :
    (s.setStage k h g).remapped = s.remapped := rfl
@[simp] theorem State.setStage_running (s : State) (k : Line) (h : Word) (g : ClientStage) :
    (s.setStage k h g).running = s.running := rfl
@[simp] theorem State.setStage_intFlag (s : State) (k : Line) (h : Word) (g : ClientStage) :
    (s.setStage k h g).intFlag = s.intFlag := rfl
@[simp] theorem State.setStage_reg (s : State) (k : Line) (h : Word) (g : ClientStage) :
    (s.setStage k h g).reg = s.reg := rfl
@[simp] theorem State.setStage_depth (s : State) (k : Line) (h : Word) (g : ClientStage) :
    (s.setStage k h g).depth = s.depth := rfl
@[simp] theorem State.setStage_ifsave (s : State) (k : Line) (h : Word) (g : ClientStage) :
    (s.setStage k h g).ifsave = s.ifsave := rfl
@[simp] theorem State.setStage_fault (s : State) (k : Line) (h : Word) (g : ClientStage) :
    (s.setStage k h g).fault = s.fault := rfl
@[simp] theorem State.setStage_halted (s : State) (k : Line) (h : Word) (g : ClientStage) :
    (s.setStage k h g).halted = s.halted := rfl
@[simp] theorem State.setStage_hist (s : State) (k : Line) (h : Word) (g : ClientStage) :
    (s.setStage k h g).hist = s.hist := rfl
@[simp] theorem State.setStage_picP (s : State) (k : Line) (h : Word) (g : ClientStage) :
    (s.setStage k h g).picP = s.picP := rfl
@[simp] theorem State.setStage_picS (s : State) (k : Line) (h : Word) (g : ClientStage) :
    (s.setStage k h g).picS = s.picS := rfl
@[simp] theorem State.setStage_tick (s : State) (k : Line) (h : Word) (g : ClientStage) :
    (s.setStage k h g).tick = s.tick := rfl
@[simp] theorem State.setStage_prog (s : State) (k : Line) (h : Word) (g : ClientStage) :
    (s.setStage k h g).prog = s.prog := rfl
@[simp] theorem State.setStage_hostIndex (s : State) (k : Line) (h : Word) (g : ClientStage) :
    (s.setStage k h g).hostIndex = s.hostIndex := rfl
@[simp] theorem State.setStage_hostPending (s : State) (k : Line) (h : Word) (g : ClientStage) :
    (s.setStage k h g).hostPending = s.hostPending := rfl
@[simp] theorem State.setStage_frames (s : State) (k : Line) (h : Word) (g : ClientStage) :
    (s.setStage k h g).frames = .client k h g :: s.frames.tail := rfl
@[simp] theorem State.setStage_sched (s : State) (k : Line) (h : Word) (g : ClientStage) :
    (s.setStage k h g).sched = s.sched := rfl
@[simp] theorem State.setStage_cycle (s : State) (k : Line) (h : Word) (g : ClientStage) :
    (s.setStage k h g).cycle = s.cycle := rfl
@[simp] theorem State.setStage_portIn (s : State) (k : Line) (h : Word) (g : ClientStage) :
    (s.setStage k h g).portIn = s.portIn := rfl
@[simp] theorem State.setStage_draws (s : State) (k : Line) (h : Word) (g : ClientStage) :
    (s.setStage k h g).draws = s.draws := rfl

@[simp] theorem State.timerTick_cfg (s : State) : (s.timerTick).cfg = s.cfg := rfl
@[simp] theorem State.timerTick_mem (s : State) : (s.timerTick).mem = s.mem := rfl
@[simp] theorem State.timerTick_gw (s : State) : (s.timerTick).gw = s.gw := rfl
@[simp] theorem State.timerTick_idtr (s : State) : (s.timerTick).idtr = s.idtr := rfl
@[simp] theorem State.timerTick_loaded (s : State) : (s.timerTick).loaded = s.loaded := rfl
@[simp] theorem State.timerTick_remapped (s : State) : (s.timerTick).remapped = s.remapped := rfl
@[simp] theorem State.timerTick_running (s : State) : (s.timerTick).running = s.running := rfl
@[simp] theorem State.timerTick_intFlag (s : State) : (s.timerTick).intFlag = s.intFlag := rfl
@[simp] theorem State.timerTick_reg (s : State) : (s.timerTick).reg = s.reg := rfl
@[simp] theorem State.timerTick_depth (s : State) : (s.timerTick).depth = s.depth := rfl
@[simp] theorem State.timerTick_ifsave (s : State) : (s.timerTick).ifsave = s.ifsave := rfl
@[simp] theorem State.timerTick_fault (s : State) : (s.timerTick).fault = s.fault := rfl
@[simp] theorem State.timerTick_halted (s : State) : (s.timerTick).halted = s.halted := rfl
@[simp] theorem State.timerTick_hist (s : State) : (s.timerTick).hist = s.hist := rfl
@[simp] theorem State.timerTick_picP (s : State) : (s.timerTick).picP = s.picP := rfl
@[simp] theorem State.timerTick_picS (s : State) : (s.timerTick).picS = s.picS := rfl
@[simp] theorem State.timerTick_tick (s : State) : (s.timerTick).tick = s.tick + 1#32 := rfl
@[simp] theorem State.timerTick_prog (s : State) : (s.timerTick).prog = s.prog := rfl
@[simp] theorem State.timerTick_hostIndex (s : State) : (s.timerTick).hostIndex = s.hostIndex := rfl
@[simp] theorem State.timerTick_hostPending (s : State) : (s.timerTick).hostPending = s.hostPending := rfl
@[simp] theorem State.timerTick_frames (s : State) : (s.timerTick).frames = s.frames := rfl
@[simp] theorem State.timerTick_sched (s : State) : (s.timerTick).sched = s.sched := rfl
@[simp] theorem State.timerTick_cycle (s : State) : (s.timerTick).cycle = s.cycle := rfl
@[simp] theorem State.timerTick_portIn (s : State) : (s.timerTick).portIn = s.portIn := rfl
@[simp] theorem State.timerTick_draws (s : State) : (s.timerTick).draws = s.draws := rfl

@[simp] theorem State.writeGate_cfg (s : State) (v : VectorNo) (a : Word) :
    (s.writeGate v a).cfg = s.cfg := rfl
@[simp] theorem State.writeGate_mem (s : State) (v : VectorNo) (a : Word) :
    (s.writeGate v a).mem = s.mem.store (slotAddr s.cfg.idtBase v) 8 (gateOf s.cfg a) := rfl
@[simp] theorem State.writeGate_gw (s : State) (v : VectorNo) (a : Word) :
    (s.writeGate v a).gw = s.gw ||| BitVec.twoPow 256 v.toNat := rfl
@[simp] theorem State.writeGate_idtr (s : State) (v : VectorNo) (a : Word) :
    (s.writeGate v a).idtr = s.idtr := rfl
@[simp] theorem State.writeGate_loaded (s : State) (v : VectorNo) (a : Word) :
    (s.writeGate v a).loaded = s.loaded := rfl
@[simp] theorem State.writeGate_remapped (s : State) (v : VectorNo) (a : Word) :
    (s.writeGate v a).remapped = s.remapped := rfl
@[simp] theorem State.writeGate_running (s : State) (v : VectorNo) (a : Word) :
    (s.writeGate v a).running = s.running := rfl
@[simp] theorem State.writeGate_intFlag (s : State) (v : VectorNo) (a : Word) :
    (s.writeGate v a).intFlag = s.intFlag := rfl
@[simp] theorem State.writeGate_reg (s : State) (v : VectorNo) (a : Word) :
    (s.writeGate v a).reg = s.reg := rfl
@[simp] theorem State.writeGate_depth (s : State) (v : VectorNo) (a : Word) :
    (s.writeGate v a).depth = s.depth := rfl
@[simp] theorem State.writeGate_ifsave (s : State) (v : VectorNo) (a : Word) :
    (s.writeGate v a).ifsave = s.ifsave := rfl
@[simp] theorem State.writeGate_fault (s : State) (v : VectorNo) (a : Word) :
    (s.writeGate v a).fault = s.fault := rfl
@[simp] theorem State.writeGate_halted (s : State) (v : VectorNo) (a : Word) :
    (s.writeGate v a).halted = s.halted := rfl
@[simp] theorem State.writeGate_hist (s : State) (v : VectorNo) (a : Word) :
    (s.writeGate v a).hist = s.hist ++ [.mw (slotAddr s.cfg.idtBase v) 8 (gateOf s.cfg a)] := rfl
@[simp] theorem State.writeGate_picP (s : State) (v : VectorNo) (a : Word) :
    (s.writeGate v a).picP = s.picP := rfl
@[simp] theorem State.writeGate_picS (s : State) (v : VectorNo) (a : Word) :
    (s.writeGate v a).picS = s.picS := rfl
@[simp] theorem State.writeGate_tick (s : State) (v : VectorNo) (a : Word) :
    (s.writeGate v a).tick = s.tick := rfl
@[simp] theorem State.writeGate_prog (s : State) (v : VectorNo) (a : Word) :
    (s.writeGate v a).prog = s.prog := rfl
@[simp] theorem State.writeGate_hostIndex (s : State) (v : VectorNo) (a : Word) :
    (s.writeGate v a).hostIndex = s.hostIndex := rfl
@[simp] theorem State.writeGate_hostPending (s : State) (v : VectorNo) (a : Word) :
    (s.writeGate v a).hostPending = s.hostPending := rfl
@[simp] theorem State.writeGate_frames (s : State) (v : VectorNo) (a : Word) :
    (s.writeGate v a).frames = s.frames := rfl
@[simp] theorem State.writeGate_sched (s : State) (v : VectorNo) (a : Word) :
    (s.writeGate v a).sched = s.sched := rfl
@[simp] theorem State.writeGate_cycle (s : State) (v : VectorNo) (a : Word) :
    (s.writeGate v a).cycle = s.cycle := rfl
@[simp] theorem State.writeGate_portIn (s : State) (v : VectorNo) (a : Word) :
    (s.writeGate v a).portIn = s.portIn := rfl
@[simp] theorem State.writeGate_draws (s : State) (v : VectorNo) (a : Word) :
    (s.writeGate v a).draws = s.draws := rfl

@[simp] theorem State.popped_cfg (s : State) : (s.popped).cfg = s.cfg := rfl
@[simp] theorem State.popped_mem (s : State) : (s.popped).mem = s.mem := rfl
@[simp] theorem State.popped_gw (s : State) : (s.popped).gw = s.gw := rfl
@[simp] theorem State.popped_idtr (s : State) : (s.popped).idtr = s.idtr := rfl
@[simp] theorem State.popped_loaded (s : State) : (s.popped).loaded = s.loaded := rfl
@[simp] theorem State.popped_remapped (s : State) : (s.popped).remapped = s.remapped := rfl
@[simp] theorem State.popped_running (s : State) : (s.popped).running = s.running := rfl
@[simp] theorem State.popped_intFlag (s : State) : (s.popped).intFlag = s.intFlag := rfl
@[simp] theorem State.popped_reg (s : State) : (s.popped).reg = s.reg := rfl
@[simp] theorem State.popped_depth (s : State) : (s.popped).depth = s.depth := rfl
@[simp] theorem State.popped_ifsave (s : State) : (s.popped).ifsave = s.ifsave := rfl
@[simp] theorem State.popped_fault (s : State) : (s.popped).fault = s.fault := rfl
@[simp] theorem State.popped_halted (s : State) : (s.popped).halted = s.halted := rfl
@[simp] theorem State.popped_hist (s : State) : (s.popped).hist = s.hist := rfl
@[simp] theorem State.popped_picP (s : State) : (s.popped).picP = s.picP := rfl
@[simp] theorem State.popped_picS (s : State) : (s.popped).picS = s.picS := rfl
@[simp] theorem State.popped_tick (s : State) : (s.popped).tick = s.tick := rfl
@[simp] theorem State.popped_prog (s : State) : (s.popped).prog = s.prog := rfl
@[simp] theorem State.popped_hostIndex (s : State) : (s.popped).hostIndex = s.hostIndex := rfl
@[simp] theorem State.popped_hostPending (s : State) : (s.popped).hostPending = s.hostPending := rfl
@[simp] theorem State.popped_frames (s : State) : (s.popped).frames = s.frames := rfl
@[simp] theorem State.popped_sched (s : State) : (s.popped).sched = s.due.tail := rfl
@[simp] theorem State.popped_cycle (s : State) : (s.popped).cycle = s.cycle := rfl
@[simp] theorem State.popped_portIn (s : State) : (s.popped).portIn = s.portIn := rfl
@[simp] theorem State.popped_draws (s : State) : (s.popped).draws = s.draws := rfl

/-- An entry of the list comes before the repeating ones. -/
theorem State.due_cons {s : State} {c : Choice} {cs : List Choice} (h : s.sched = c :: cs) : s.due = c :: cs := by
  simp [State.due, h]

/-- Once the list is used up, the repeating entries are due. -/
theorem State.due_nil {s : State} (h : s.sched = []) : s.due = s.cycle := by simp [State.due, h]

/-- Taking the oldest entry due leaves the others as the list. -/
theorem State.popped_due {s : State} {c : Choice} {cs : List Choice} (h : s.due = c :: cs) :
    s.popped = { s with sched := cs } := by simp [State.popped, h]

end Sys2Proof.Machine
end

