-- ==== Sys2Proof/Laws/Ops.lean ====
section
/-! SUPPORT. What each shared operation can do, once: the gate fetch, the delivery, the invocation, the EOI sequence, the
request path, the registration, and exec as a whole. -/

namespace Sys2Proof.Machine

/-- An operation always answers a next state. -/
theorem exec_next (i : Instr) (s : State) : ∃ t, exec i s = .next t := by
  cases i <;> simp only [exec, execSetgate, execLoadidt, execPicremap, execRegister, execEnable,
    execDispatchExc, execDispatchReqPrimary, execDispatchReqSecondary, execDispatchUnrouted] <;>
    (repeat' split) <;> exact ⟨_, rfl⟩

/-- A gate fetch that answers an address has passed every check (R132). -/
theorem State.gateFetch_ok {s : State} {v w : VectorNo} {a : Word} (h : s.gateFetch v = .ok (a, w)) :
    s.loaded = true ∧ s.gateWritten v = true ∧
      gatePresent (s.mem.load (slotAddr s.idtr.base v) 8) = true ∧
      a = gateAddr (s.mem.load (slotAddr s.idtr.base v) 8) ∧ trampAt s.cfg a = some w := by
  unfold State.gateFetch at h
  split at h
  · cases h
  · split at h
    · cases h
    · dsimp only at h
      split at h
      · cases h
      · split at h
        · cases h
        · rename_i hl hg hp _ _ ht
          cases h
          exact ⟨by simpa using hl, by simpa using hg, by simpa using hp, rfl, ht⟩

/-- A delivery either raises one fault or enters the trampoline its gate names (R134). -/
theorem State.deliver_cases (s : State) (v : VectorNo) (e : Option Word) (cpu : CpuRegs) :
    (∃ c, s.gateFetch v = .error c ∧ s.deliver v e cpu = s.raise c) ∨
      ∃ a w, s.gateFetch v = .ok (a, w) ∧ s.deliver v e cpu = s.trapEnter v w e cpu := by
  unfold State.deliver
  cases h : s.gateFetch v with
  | error c => exact .inl ⟨c, rfl, rfl⟩
  | ok r => exact .inr ⟨r.1, r.2, rfl, rfl⟩

/-- An invocation either raises UnknownHandler or opens the client that CLIENT names (R104, R105). -/
theorem State.invoke_cases (s : State) (k : Line) (h n : Word) :
    (clientOf s.cfg h = none ∧ s.invoke k h n = s.raise .unknownHandler) ∨
      ∃ kind, clientOf s.cfg h = some kind ∧
        s.invoke k h n =
          { s with hist := s.hist ++ [.call k h n], frames := .client k h (firstStage kind) :: s.frames } := by
  unfold State.invoke
  cases clientOf s.cfg h with
  | none => exact .inl ⟨rfl, rfl⟩
  | some kind => exact .inr ⟨kind, rfl, rfl⟩

/-- The EOI sequence writes the two PICs' in-service bits and the history, and nothing else (R97, R147). -/
theorem State.eoi_eq (s : State) (k : Line) :
    s.eoi k =
      { s with
        hist := s.hist ++ ((if 8 ≤ k.toNat then [.pw 0xA0#16 0x20#8] else []) ++ [.pw 0x20#16 0x20#8])
        picP := s.picP.eoi
        picS := if 8 ≤ k.toNat then s.picS.eoi else s.picS } := by
  unfold State.eoi
  split <;>
    simp [State.portWrite, Config.picPCmd, Config.picPData, Config.picSCmd, Config.picSData, Pic.command]

/-- The request path: EOIs, and then nothing, a fault, or an invocation (R88, R90, R105). -/
theorem State.requestPath_cases (s : State) (n : Word) :
    (s.lookup (requestIndex n) = 0#32 ∧ s.requestPath n = s.eoi (requestIndex n)) ∨
      (s.lookup (requestIndex n) ≠ 0#32 ∧
        s.requestPath n = (s.eoi (requestIndex n)).invoke (requestIndex n) (s.lookup (requestIndex n)) n) := by
  have h : (s.eoi (requestIndex n)).lookup (requestIndex n) = s.lookup (requestIndex n) := by
    rw [State.eoi_eq]
    rfl
  unfold State.requestPath
  dsimp only
  rw [h]
  split
  · exact .inl ⟨by assumption, rfl⟩
  · exact .inr ⟨by assumption, rfl⟩

/-- A registration either raises one fault or writes one slot (R101). -/
theorem State.registerHandler_cases (s : State) (i : Byte) (h : Word) :
    (16 ≤ i.toNat ∧ s.registerHandler i h = s.raise .badIndex) ∨
      (i.toNat < 16 ∧ s.running = true ∧ s.registerHandler i h = s.raise .lateRegister) ∨
      ∃ lt : i.toNat < 16, s.running = false ∧ s.registerHandler i h = s.setReg ⟨i.toNat, lt⟩ h := by
  unfold State.registerHandler
  by_cases lt : i.toNat < 16
  · rw [dif_pos lt]
    cases hr : s.running
    · exact .inr (.inr ⟨lt, rfl, by simp⟩)
    · exact .inr (.inl ⟨lt, rfl, by simp⟩)
  · rw [dif_neg lt]
    exact .inl ⟨by omega, rfl⟩

/-- The remap leaves both chips ready, programmed and unmasked, and writes ten events (R94, R145, R146). -/
theorem State.portWrites_remap (s : State) :
    s.portWrites remapWrites =
      { s with
        hist := s.hist ++ remapWrites.map fun w => .pw w.1 w.2
        picP :=
          { initStep := .ready, ic4 := true, sngl := false, base := 0x20#8, cascade := 0x04#8,
            mode := 0x01#8, imr := 0x00#8, irr := s.picP.irr, isr := 0x00#8 }
        picS :=
          { initStep := .ready, ic4 := true, sngl := false, base := 0x28#8, cascade := 0x02#8,
            mode := 0x01#8, imr := 0x00#8, irr := s.picS.irr, isr := 0x00#8 } } := by
  simp [remapWrites, State.portWrites, State.portWrite, Config.picPCmd, Config.picPData, Config.picSCmd,
    Config.picSData, Pic.command, Pic.data, Pic.icw1]

/-- The byte `i` of slot `v` of a table that does not wrap (R18, R40). -/
theorem slotAddr_toNat {b : Word} (v : VectorNo) {i : Nat} (h : b.toNat + 2047 ≤ 0xFFFFFFFF) (hi : i < 8) :
    (slotAddr b v + BitVec.ofNat 32 i).toNat = b.toNat + 8 * v.toNat + i := by
  have := v.isLt
  simp [slotAddr, BitVec.toNat_add, BitVec.toNat_mul]
  omega

/-- SETGATE sets the bit of its own slot and no other (R19, R73). -/
theorem State.gateWritten_writeGate (s : State) (v u : VectorNo) (a : Word) :
    (s.writeGate v a).gateWritten u = (decide (u = v) || s.gateWritten u) := by
  have hu := u.isLt
  unfold State.gateWritten
  simp only [State.writeGate_gw, BitVec.getLsbD_or, BitVec.getLsbD_twoPow]
  by_cases h : u = v
  · subst h
    simp
    omega
  · have : u.toNat ≠ v.toNat := fun e => h (BitVec.eq_of_toNat_eq e)
    simp [h, Ne.symm this]

/-- Everything one operation can do to a state: raise a fault, or its own effect (R73, R76, R94, R101, R107,
R84, R88, R91). -/
inductive ExecCase (s : State) : State → Prop where
  | raised (c : FaultCode) : ExecCase s (s.raise c)
  | gate (v : VectorNo) (a : Word) : s.loaded = false →
      (isRequestVector v = true → s.remapped = true) → ExecCase s (s.writeGate v a)
  | load : s.loaded = false →
      ExecCase s
        { s with
          idtr := { base := s.cfg.idtBase, limit := Config.idtLimit }
          loaded := true
          hist := s.hist ++ [.lidt s.cfg.idtBase Config.idtLimit] }
  | remap : s.running = false → s.remapped = false →
      ExecCase s
        { s with
          remapped := true
          hist := s.hist ++ remapWrites.map fun w => .pw w.1 w.2
          picP :=
            { initStep := .ready, ic4 := true, sngl := false, base := 0x20#8, cascade := 0x04#8,
              mode := 0x01#8, imr := 0x00#8, irr := s.picP.irr, isr := 0x00#8 }
          picS :=
            { initStep := .ready, ic4 := true, sngl := false, base := 0x28#8, cascade := 0x02#8,
              mode := 0x01#8, imr := 0x00#8, irr := s.picS.irr, isr := 0x00#8 } }
  | register (k : Fin 16) (h : Word) : s.running = false → ExecCase s (s.setReg k h)
  | enable : s.depth = 0 → s.loaded = true → s.remapped = true →
      ExecCase s ({ s.setIf with running := true }.emit .sti)
  | report (n : Word) :
      ExecCase s
        { s.screenPrint (reportText s.cfg n) with halted := s.halted || s.cfg.excPolicy == .halt }
  | acked (k : Line) : ExecCase s (s.eoi k)
  | invoked (k : Line) (h n : Word) : ExecCase s ((s.eoi k).invoke k h n)

theorem exec_cases {i : Instr} {s t : State} (h : exec i s = .next t) : ExecCase s t := by
  cases i with
  | setgate v a =>
    simp only [exec, execSetgate] at h
    split at h
    · cases h
      exact .raised _
    · split at h
      · cases h
        exact .raised _
      · rename_i hl hr
        cases h
        refine .gate v a (by simpa using hl) fun hv => ?_
        simpa [hv] using hr
  | loadidt =>
    simp only [exec, execLoadidt] at h
    split at h
    · cases h
      exact .raised _
    · rename_i hl
      cases h
      exact .load (by simpa using hl)
  | picremap =>
    simp only [exec, execPicremap] at h
    split at h
    · cases h
      exact .raised _
    · split at h
      · cases h
        exact .raised _
      · rename_i hr hm
        rw [State.portWrites_remap] at h
        cases h
        exact .remap (by simpa using hr) (by simpa using hm)
  | register k hid =>
    simp only [exec, execRegister] at h
    rcases s.registerHandler_cases k hid with ⟨_, hr⟩ | ⟨_, _, hr⟩ | ⟨_, hn, hr⟩ <;> rw [hr] at h <;> cases h
    · exact .raised _
    · exact .raised _
    · exact .register _ _ hn
  | enable =>
    simp only [exec, execEnable] at h
    split at h
    · cases h
      exact .raised _
    · split at h
      · cases h
        exact .raised _
      · split at h
        · cases h
          exact .raised _
        · rename_i hd hl hm
          cases h
          exact .enable (by omega) (by simpa using hl) (by simpa using hm)
  | dispatchExc n =>
    cases h
    exact .report n
  | dispatchReqPrimary n =>
    simp only [exec, execDispatchReqPrimary] at h
    rcases s.requestPath_cases n with ⟨_, hr⟩ | ⟨_, hr⟩ <;> rw [hr] at h <;> cases h
    · exact .acked _
    · exact .invoked _ _ _
  | dispatchReqSecondary n =>
    simp only [exec, execDispatchReqSecondary] at h
    rcases s.requestPath_cases n with ⟨_, hr⟩ | ⟨_, hr⟩ <;> rw [hr] at h <;> cases h
    · exact .acked _
    · exact .invoked _ _ _
  | dispatchUnrouted n =>
    cases h
    exact .raised _

/-- An operation of the host's port opens and closes no trampoline and no client. -/
theorem exec_host_frames {i : Instr} {s t : State} (hp : i.port = .host) (h : exec i s = .next t) :
    t.frames = s.frames := by
  cases i <;> cases hp <;>
    simp only [exec, execSetgate, execLoadidt, execPicremap, execRegister, execEnable,
      State.registerHandler, State.portWrites_remap] at h <;>
    (repeat' split at h) <;> cases h <;> rfl

/-- An operation leaves the writes the host has due as they are. -/
theorem exec_hostPending {i : Instr} {s t : State} (h : exec i s = .next t) :
    t.hostPending = s.hostPending := by
  cases exec_cases h with
  | acked k => rw [State.eoi_eq]
  | invoked k x n =>
    rw [State.eoi_eq]
    rcases State.invoke_cases _ k x n with ⟨_, e⟩ | ⟨_, _, e⟩ <;> rw [e] <;> rfl
  | _ => rfl

end Sys2Proof.Machine
end

