-- ==== Sys2Proof/Laws/Step.lean ====
section
/-! SUPPORT. Everything one step of the machine can do, as one relation, and the inversion lemma from `step` to it. -/

namespace Sys2Proof.Machine

/-- One atomic move of one agent, the schedule's entry already taken (R12, R15). -/
inductive Move (s : State) : State → Prop where
  /-- an operation of the block, a client's host command -/
  | exec (k : Line) (h : Word) (ports : List PortNum) (rest : List Frame) (t : State) :
      s.frames = .client k h (.free ports) :: rest → t.frames = s.frames → ExecCase s t → Move s t
  /-- an operation of the block, a host item -/
  | hostExec (t : State) : s.frames = [] → s.hostPending = [] → t.frames = s.frames → ExecCase s t →
      Move s t.hostAdvance
  | hostPrint (t : Text) : s.frames = [] → s.hostPending = [] → Move s (s.screenPrint t).hostAdvance
  | timerInit (f : Word) : s.frames = [] → s.hostPending = [] → Move s (s.timerInit f).hostAdvance
  | kbdInit : s.frames = [] → s.hostPending = [] → Move s s.kbdInit.hostAdvance
  | pendingWrite (w : PortNum × Byte) (ws : List (PortNum × Byte)) : s.frames = [] →
      s.hostPending = w :: ws → Move s (({ s with hostPending := ws }.portWrite w.1 w.2).hostAdvance)
  /-- a trampoline calls DISPATCH -/
  | dispatch (saved : CpuRegs) (snap : Snapshot) (rest : List Frame) (t : State) :
      s.frames = .tramp saved (.issue snap) :: rest →
      Sys2Proof.Machine.exec (decodeIntNo snap.intNo) { s with frames := .tramp saved (.called snap) :: rest } =
        .next t →
      Move s (if t.fault.isNone then t.dispatchReturn else t)
  /-- no faultless run takes it (assumption log 20) -/
  | dispatchReturn (saved : CpuRegs) (snap : Snapshot) (rest : List Frame) :
      s.frames = .tramp saved (.called snap) :: rest → Move s s.dispatchReturn
  | trapReturn (saved : CpuRegs) (rest : List Frame) : s.frames = .tramp saved .ret :: rest →
      Move s s.trapReturn
  | client (k : Line) (h : Word) (stage : ClientStage) (rest : List Frame) :
      s.frames = .client k h stage :: rest → Move s (s.clientRun k h stage)
  | clientRead (k : Line) (h : Word) (ports : List PortNum) (rest : List Frame) (p : PortNum) :
      s.frames = .client k h (.free ports) :: rest → p ∈ ports → Move s (s.portRead p)
  | clientWrite (k : Line) (h : Word) (ports : List PortNum) (rest : List Frame) (p : PortNum) (b : Byte) :
      s.frames = .client k h (.free ports) :: rest → p ∈ ports → Move s (s.portWrite p b)
  | clientPrint (k : Line) (h : Word) (ports : List PortNum) (rest : List Frame) (t : Text) :
      s.frames = .client k h (.free ports) :: rest → Move s (s.screenPrint t)
  | clientOwn (k : Line) (h : Word) (ports : List PortNum) (rest : List Frame) :
      s.frames = .client k h (.free ports) :: rest → Move s s
  | raiseLine (l : Line) : l ≠ 2#4 → Move s (s.raiseLine l)
  | exception (v : BitVec 5) (e : Option Word) (cpu : CpuRegs) : Move s (s.deliver (v.setWidth 8) e cpu)
  | request (l : Line) (cpu : CpuRegs) : s.intFlag = true → s.offersLine l = true →
      Move s ((s.ackLine l).deliver (s.lineVector l) none cpu)

/-- The host's advance changes at most the host index (R17). -/
theorem State.hostAdvance_eq (t : State) : ∃ n, t.hostAdvance = { t with hostIndex := n } := by
  unfold State.hostAdvance
  split
  · exact ⟨_, rfl⟩
  · exact ⟨t.hostIndex, rfl⟩

/-- KBD_INIT raises LateRegister or registers the keyboard's handler (R117, R122). -/
theorem State.kbdInit_cases (s : State) :
    s.kbdInit = s.raise .lateRegister ∨ s.running = false ∧ s.kbdInit = s.setReg 1 s.cfg.kbdH := by
  rcases s.registerHandler_cases 1#8 s.cfg.kbdH with ⟨h, _⟩ | ⟨_, _, h⟩ | ⟨_, hn, h⟩
  · exact absurd h (by decide)
  · exact .inl h
  · exact .inr ⟨hn, h⟩

/-- TIMER_INIT raises one fault, or registers the timer's handler and has three port writes due; the last
case is a registration over an earlier fault, which no run reaches (R112, R122). -/
theorem State.timerInit_cases (s : State) (f : Word) :
    s.timerInit f = s.raise .timerDivideByZero ∨ s.timerInit f = s.raise .lateRegister ∨
      (s.running = false ∧ s.fault = none ∧
        s.timerInit f = { s.setReg 0 s.cfg.timerH with hostPending := timerWrites s.cfg f }) ∨
      (s.running = false ∧ s.fault ≠ none ∧ s.timerInit f = s.setReg 0 s.cfg.timerH) := by
  unfold State.timerInit
  by_cases hf : f = 0#32
  · exact .inl (by rw [if_pos hf])
  · rw [if_neg hf]
    dsimp only
    rcases s.registerHandler_cases 0#8 s.cfg.timerH with ⟨h, _⟩ | ⟨_, _, h⟩ | ⟨_, hn, h⟩
    · exact absurd h (by decide)
    · refine .inr (.inl ?_)
      rw [h, if_neg]
      simp
    · rw [h]
      cases hs : s.fault with
      | none => exact .inr (.inr (.inl ⟨hn, rfl, by simp [hs]⟩))
      | some c => exact .inr (.inr (.inr ⟨hn, by simp, by simp [hs]⟩))

theorem runWord_cases {port : CmdPort} {cw : Word64} {s t : State} (h : runWord port cw s = .next t) :
    ExecCase s t := by
  unfold runWord at h
  split at h
  · exact exec_cases h
  · cases h
    exact .raised _

/-- A host port's word is no DISPATCH (R54). -/
theorem decode_host_port {cw : Word64} {i : Instr} (h : decode .host cw = some i) : i.port = .host := by
  simp only [decode, decodeHost] at h
  split at h
  · cases h; rfl
  · split at h
    · cases h; rfl
    · split at h
      · cases h; rfl
      · split at h
        · cases h; rfl
        · split at h
          · cases h; rfl
          · cases h

/-- A host command opens and closes no trampoline and no client (R73, R76, R94, R101, R107). -/
theorem runWord_host_frames {cw : Word64} {s t : State} (h : runWord .host cw s = .next t) :
    t.frames = s.frames := by
  unfold runWord at h
  split at h
  · rename_i hd
    exact exec_host_frames (decode_host_port hd) h
  · cases h
    rfl

theorem hostStep_move {s t : State} (hf : s.frames = []) (h : hostStep s = .next t) : Move s t := by
  unfold hostStep at h
  split at h
  · rename_i w ws hp
    cases h
    exact .pendingWrite w ws hf hp
  · rename_i hp
    split at h
    · cases h
    · rename_i item _
      cases item with
      | word cw =>
        simp only [runItem] at h
        cases hr : runWord .host cw s with
        | next u =>
          rw [hr] at h
          cases h
          exact .hostExec u hf hp (runWord_host_frames hr) (runWord_cases hr)
        | fault r => rw [hr] at h; cases h
        | refused r => rw [hr] at h; cases h
      | timerInit f => cases h; exact .timerInit f hf hp
      | kbdInit => cases h; exact .kbdInit hf hp
      | print x => cases h; exact .hostPrint x hf hp

/-- After a DISPATCH call that answers a next state, DISPATCH has returned unless it raised a fault or its
client runs (R86, R104). -/
theorem dispatchDone_next {o : Host.Outcome State Fault Refusal} {t : State} (h : dispatchDone o = .next t) :
    ∃ u, o = .next u ∧ t = if u.fault.isNone then u.dispatchReturn else u := by
  cases o with
  | next u => cases h; exact ⟨u, rfl, rfl⟩
  | fault r => cases h
  | refused r => cases h

theorem softwareStep_move {s t : State} (h : softwareStep s = .next t) : Move s t := by
  unfold softwareStep at h
  split at h
  · exact hostStep_move (by assumption) h
  · rename_i saved snap rest hf
    unfold runWord at h
    rw [decode_dispatchWord] at h
    obtain ⟨u, hu, rfl⟩ := dispatchDone_next h
    exact .dispatch saved snap rest u hf hu
  · rename_i saved snap rest hf
    cases h
    exact .dispatchReturn saved snap rest hf
  · rename_i saved rest hf
    cases h
    exact .trapReturn saved rest hf
  · rename_i k hid stage rest hf
    cases h
    exact .client k hid stage rest hf

theorem clientAct_move {a : ClientAct} {s t : State} {c : Choice} (h : clientAct a s c = .next t) :
    Move s t := by
  unfold clientAct at h
  split at h
  · rename_i k hid ports rest hf
    cases a with
    | portRead p =>
      dsimp only at h
      split at h
      · cases h; exact .clientRead k hid ports rest p hf (by assumption)
      · cases h
    | portWrite p b =>
      dsimp only at h
      split at h
      · split at h
        · cases h
        · cases h; exact .clientWrite k hid ports rest p b hf (by assumption)
      · cases h
    | print x => cases h; exact .clientPrint k hid ports rest x hf
    | host cw => exact .exec k hid ports rest t hf (runWord_host_frames h) (runWord_cases h)
    | own => cases h; exact .clientOwn k hid ports rest hf
  · cases h

theorem chosenStep_move {c : Choice} {s t : State} (h : chosenStep c s = .next t) : Move s t := by
  cases c with
  | run => exact softwareStep_move h
  | act a => exact clientAct_move h
  | raise l =>
    simp only [chosenStep] at h
    split at h
    · cases h
    · cases h; exact .raiseLine l (by assumption)
  | exc v e cpu => cases h; exact .exception v e cpu
  | req l cpu =>
    simp only [chosenStep] at h
    split at h
    · rename_i hc
      simp only [Bool.and_eq_true] at hc
      cases h
      exact .request l cpu hc.1 hc.2
    · cases h

/-- A step that answers a next state comes from a configured, faultless, running machine, and is one move
of one agent. -/
theorem step_move {s t : State} (h : step s = .next t) :
    idtFits s.cfg = true ∧ s.fault = none ∧ s.halted = false ∧ Move s.popped t := by
  unfold step at h
  split at h
  · cases h
  · split at h
    · cases h
    · split at h
      · cases h
      · rename_i hc _ hf hh
        refine ⟨by simpa using hc, hf, by simpa using hh, ?_⟩
        exact chosenStep_move h

/-- A run that begins with a step that answers goes on from that step's state. -/
theorem core_run_succ {s t : State} (n : Nat) (h : step s = .next t) : core.run (n + 1) s = core.run n t := by
  simp only [Host.Core.run]
  rw [show core.step s = .next t from h]

/-- A run ends at a state with no further step. -/
theorem core_run_stop {s : State} (n : Nat) (h : ∀ t, step s ≠ .next t) (u : State) :
    core.run (n + 1) s ≠ .next u := by
  simp only [Host.Core.run]
  split
  · rename_i t e
    exact absurd e (h t)
  · simp
  · simp

/-- After no step a run stands where it began. -/
@[simp] theorem State.reaches_zero {s t : State} : s.Reaches 0 t ↔ s = t :=
  ⟨fun h => by cases h; rfl, fun h => by rw [h]; rfl⟩

/-- A run goes on for one step more where its first step answers and the run from there goes on. -/
theorem State.reaches_succ {s t : State} {n : Nat} :
    s.Reaches (n + 1) t ↔ ∃ u, step s = .next u ∧ u.Reaches n t := by
  unfold State.Reaches
  constructor
  · intro h
    cases e : step s with
    | next u => exact ⟨u, rfl, by rwa [core_run_succ n e] at h⟩
    | fault r => exact absurd h (core_run_stop n (by simp [e]) t)
    | refused r => exact absurd h (core_run_stop n (by simp [e]) t)
  · rintro ⟨u, e, h⟩
    rwa [core_run_succ n e]

/-- A run goes on from a state it stands at. -/
theorem State.reaches_add {s t u : State} {n k : Nat} (h : s.Reaches n t) :
    s.Reaches (n + k) u ↔ t.Reaches k u := by
  induction n generalizing s with
  | zero =>
    obtain rfl := State.reaches_zero.1 h
    rw [Nat.zero_add]
  | succ n ih =>
    obtain ⟨w, e, h'⟩ := State.reaches_succ.1 h
    rw [show n + 1 + k = (n + k) + 1 by omega, State.reaches_succ, ← ih h']
    exact ⟨fun ⟨v, ev, hv⟩ => by rw [e] at ev; cases ev; exact hv, fun hv => ⟨w, e, hv⟩⟩

/-- A live state's step is its agents' step. -/
theorem step_of_live {s : State} (h : s.Live) : step s = agentStep s := by
  obtain ⟨hc, hf, hh⟩ := h
  simp [step, hc, hf, hh]

/-- Where the software moves next, the step is the software's, from the state with the schedule's entry taken. -/
theorem step_of_software {s : State} (h : s.Live) (hs : s.SoftwareNext) :
    step s = softwareStep s.popped := by
  rw [step_of_live h]
  unfold agentStep
  rw [hs]
  rfl

/-- The step is the one the oldest entry due names, from the state with it taken. -/
theorem step_of_due {s : State} {c : Choice} {cs : List Choice} (h : s.Live) (hs : s.due = c :: cs) :
    step s = chosenStep c { s with sched := cs } := by
  rw [step_of_live h]
  unfold agentStep
  rw [State.popped_due hs, hs]
  rfl

/-- The gate fetch does not look at the schedule. -/
@[simp] theorem State.gateFetch_sched (s : State) (cs : List Choice) (v : VectorNo) :
    State.gateFetch { s with sched := cs } v = s.gateFetch v := rfl

/-- The gate fetch does not look at the chips. -/
@[simp] theorem State.gateFetch_ackLine (s : State) (l : Line) (v : VectorNo) :
    (s.ackLine l).gateFetch v = s.gateFetch v := by unfold State.ackLine; split <;> rfl

/-- The four faults of the gate fetch, in their order (R125, R132). -/
theorem State.gateFetch_fails {s : State} {v : VectorNo} {c : FaultCode} (h : s.FetchFails v c) :
    s.gateFetch v = .error c := by
  unfold State.gateFetch
  rcases h with ⟨h, rfl⟩ | ⟨hl, h, rfl⟩ | ⟨hl, hw, h, rfl⟩ | ⟨hl, hw, hp, h, rfl⟩
  · rw [if_pos h]
  · rw [if_neg (by simp [hl]), if_pos h]
  · rw [if_neg (by simp [hl]), if_neg (by simp [hw])]
    exact if_pos h
  · rw [if_neg (by simp [hl]), if_neg (by simp [hw])]
    dsimp only
    rw [if_neg (by simp [gatePresent, hp]), h]

/-- What DISPATCH's return changes of the snapshots and of what the trampolines restore (R93). -/
@[simp] theorem savedRegs_endDispatch (fs : List Frame) : savedRegs (endDispatch fs) = savedRegs fs := by
  rcases fs with - | ⟨⟨_, - | - | -⟩ | -, _⟩ <;> rfl

@[simp] theorem openTramps_endDispatch (fs : List Frame) : openTramps (endDispatch fs) = openTramps fs := by
  rcases fs with - | ⟨⟨_, - | - | -⟩ | -, _⟩ <;> rfl

/-- No snapshot begins at DISPATCH's return. -/
theorem openSnaps_endDispatch_sub :
    ∀ {fs : List Frame} {x : Snapshot}, x ∈ openSnaps (endDispatch fs) → x ∈ openSnaps fs
  | [], _, h => h
  | .tramp _ (.issue _) :: _, _, h => h
  | .tramp _ (.called _) :: _, _, h => List.mem_cons_of_mem _ h
  | .tramp _ .ret :: _, _, h => h
  | .client _ _ _ :: _, _, h => h

end Sys2Proof.Machine
end

