-- ==== Sys2Proof/Laws/Keeps.lean ====
section
/-! SUPPORT. A property of states is kept by every step once each elementary update keeps it: the case analysis over the
agents and the operations is done here, once. -/

namespace Sys2Proof.Machine

/-- Every elementary update of the machine keeps `P`, under what is known where the update is made. -/
structure Keeps (P : State → Prop) : Prop where
  hostIndex : ∀ s n, P s → P { s with hostIndex := n }
  screenPrint : ∀ s x, P s → P (s.screenPrint x)
  raise : ∀ s c, P s → P (s.raise c)
  setReg : ∀ s k x, s.running = false → P s → P (s.setReg k x)
  timerInit : ∀ s f, s.running = false → P s →
    P { s.setReg 0 s.cfg.timerH with hostPending := timerWrites s.cfg f }
  pendingWrite : ∀ s w ws, s.hostPending = w :: ws → P s → P ({ s with hostPending := ws }.portWrite w.1 w.2)
  issue : ∀ s saved snap rest, s.frames = .tramp saved (.issue snap) :: rest → P s →
    P { s with frames := .tramp saved (.called snap) :: rest }
  dispatchReturn : ∀ s, P s → P s.dispatchReturn
  trapReturn : ∀ s saved rest, s.frames = .tramp saved .ret :: rest → P s → P s.trapReturn
  timerTick : ∀ s k h rest, s.frames = .client k h .timerStart :: rest → P s →
    P { s with tick := s.tick + 1#32, frames := .client k h .leave :: rest }
  kbdRead : ∀ s k h rest g, s.frames = .client k h .kbdStart :: rest → g = .leave ∨ g = .free [] → P s →
    P { s.portRead Config.kbdData with frames := .client k h g :: rest }
  clientReturn : ∀ s k h g rest, s.frames = .client k h g :: rest → P s →
    P { s with hist := s.hist ++ [.ret k], frames := rest }
  portRead : ∀ s k h ports rest p, s.frames = .client k h (.free ports) :: rest → p ∈ ports → P s →
    P (s.portRead p)
  portWrite : ∀ s k h ports rest p b, s.frames = .client k h (.free ports) :: rest → p ∈ ports → P s →
    P (s.portWrite p b)
  raiseLine : ∀ s l, l ≠ 2#4 → P s → P (s.raiseLine l)
  trapEnter : ∀ s v a w e cpu, s.gateFetch v = .ok (a, w) → P s → P (s.trapEnter v w e cpu)
  ackLine : ∀ s l, s.intFlag = true → s.offersLine l = true → P s → P (s.ackLine l)
  writeGate : ∀ s v a, idtFits s.cfg = true → s.loaded = false → P s → P (s.writeGate v a)
  load : ∀ s, s.loaded = false → P s →
    P
      { s with
        idtr := { base := s.cfg.idtBase, limit := Config.idtLimit }
        loaded := true
        hist := s.hist ++ [.lidt s.cfg.idtBase Config.idtLimit] }
  remap : ∀ s, s.running = false → s.remapped = false → P s →
    P
      { s with
        remapped := true
        hist := s.hist ++ remapWrites.map fun w => .pw w.1 w.2
        picP :=
          { initStep := .ready, ic4 := true, sngl := false, base := 0x20#8, cascade := 0x04#8,
            mode := 0x01#8, imr := 0x00#8, irr := s.picP.irr, isr := 0x00#8 }
        picS :=
          { initStep := .ready, ic4 := true, sngl := false, base := 0x28#8, cascade := 0x02#8,
            mode := 0x01#8, imr := 0x00#8, irr := s.picS.irr, isr := 0x00#8 } }
  enable : ∀ s, s.depth = 0 → s.loaded = true → s.remapped = true → P s →
    P ({ s.setIf with running := true }.emit .sti)
  report : ∀ s n, P s →
    P { s.screenPrint (reportText s.cfg n) with halted := s.halted || s.cfg.excPolicy == .halt }
  eoi : ∀ s (k : Line) es, P s →
    P
      { s with
        hist := s.hist ++ es, picP := s.picP.eoi
        picS := if 8 ≤ k.toNat then s.picS.eoi else s.picS }
  call : ∀ s k h n kind, clientOf s.cfg h = some kind → P s →
    P { s with hist := s.hist ++ [.call k h n], frames := .client k h (firstStage kind) :: s.frames }

theorem Keeps.hostAdvance {P : State → Prop} (K : Keeps P) {t : State} (h : P t) : P t.hostAdvance := by
  obtain ⟨n, e⟩ := t.hostAdvance_eq
  rw [e]
  exact K.hostIndex _ _ h

theorem Keeps.deliver {P : State → Prop} (K : Keeps P) {s : State} (v : VectorNo) (e : Option Word)
    (cpu : CpuRegs) (h : P s) : P (s.deliver v e cpu) := by
  rcases s.deliver_cases v e cpu with ⟨_, _, r⟩ | ⟨_, _, g, r⟩ <;> rw [r]
  · exact K.raise _ _ h
  · exact K.trapEnter _ _ _ _ _ _ g h

/-- One operation keeps `P` where each elementary update does. -/
theorem Keeps.exec {P : State → Prop} (K : Keeps P) {s t : State} (hc : idtFits s.cfg = true) (h : P s)
    (m : ExecCase s t) : P t := by
  cases m with
  | raised c => exact K.raise _ _ h
  | gate v a hl _ => exact K.writeGate _ _ _ hc hl h
  | load hl => exact K.load _ hl h
  | remap hr hm => exact K.remap _ hr hm h
  | register k x hr => exact K.setReg _ _ _ hr h
  | enable hd hl hm => exact K.enable _ hd hl hm h
  | report n => exact K.report _ _ h
  | acked k =>
    rw [State.eoi_eq]
    exact K.eoi _ _ _ h
  | invoked k x n =>
    have ha : P (s.eoi k) := by
      rw [State.eoi_eq]
      exact K.eoi _ _ _ h
    rcases (s.eoi k).invoke_cases k x n with ⟨_, e⟩ | ⟨kind, hk, e⟩ <;> rw [e]
    · exact K.raise _ _ ha
    · exact K.call _ _ _ _ _ hk ha

/-- One move keeps `P` where each elementary update does. -/
theorem Keeps.move {P : State → Prop} (K : Keeps P) {s t : State} (hc : idtFits s.cfg = true) (h : P s)
    (m : Move s t) : P t := by
  cases m with
  | exec _ _ _ _ _ _ _ m => exact K.exec hc h m
  | hostExec t _ _ _ m => exact K.hostAdvance (K.exec hc h m)
  | hostPrint t _ _ => exact K.hostAdvance (K.screenPrint _ _ h)
  | timerInit f _ _ =>
    apply K.hostAdvance
    rcases s.timerInit_cases f with e | e | ⟨hr, _, e⟩ | ⟨hr, _, e⟩ <;> rw [e]
    · exact K.raise _ _ h
    · exact K.raise _ _ h
    · exact K.timerInit _ _ hr h
    · exact K.setReg _ _ _ hr h
  | kbdInit _ _ =>
    apply K.hostAdvance
    rcases s.kbdInit_cases with e | ⟨hr, e⟩ <;> rw [e]
    · exact K.raise _ _ h
    · exact K.setReg _ _ _ hr h
  | pendingWrite w ws _ hw => exact K.hostAdvance (K.pendingWrite _ _ _ hw h)
  | dispatch saved snap rest t hf m =>
    have ht := K.exec (s := { s with frames := .tramp saved (.called snap) :: rest }) hc (K.issue _ _ _ _ hf h)
      (exec_cases m)
    split
    · exact K.dispatchReturn _ ht
    · exact ht
  | dispatchReturn _ _ _ _ => exact K.dispatchReturn _ h
  | trapReturn saved rest hf => exact K.trapReturn _ _ _ hf h
  | client k x g rest hf =>
    have ht : s.frames.tail = rest := by rw [hf]; rfl
    cases g with
    | timerStart =>
      have := K.timerTick _ _ _ _ hf h
      rw [← ht] at this
      exact this
    | kbdStart =>
      have := K.kbdRead _ _ _ _ (if s.cfg.scMax < s.drawByte then .leave else .free []) hf
        (by split <;> simp) h
      rw [← ht] at this
      exact this
    | free ports =>
      have := K.dispatchReturn _ (K.clientReturn _ _ _ _ _ hf h)
      rw [← ht] at this
      exact this
    | leave =>
      have := K.dispatchReturn _ (K.clientReturn _ _ _ _ _ hf h)
      rw [← ht] at this
      exact this
  | clientRead k x ports rest p hf hp => exact K.portRead _ _ _ _ _ _ hf hp h
  | clientWrite k x ports rest p b hf hp => exact K.portWrite _ _ _ _ _ _ _ hf hp h
  | clientPrint _ _ _ _ x _ => exact K.screenPrint _ _ h
  | clientOwn _ _ _ _ _ => exact h
  | raiseLine l hl => exact K.raiseLine _ _ hl h
  | exception v e cpu => exact K.deliver _ _ _ h
  | request l cpu hi ho => exact K.deliver _ _ _ (K.ackLine _ _ hi ho h)

/-- One step keeps `P` where each elementary update does and `P` does not ask for the schedule. -/
theorem Keeps.step {P : State → Prop} (K : Keeps P) (hs : ∀ s l, P s → P { s with sched := l })
    {s t : State} (h : P s) (st : Sys2Proof.Machine.step s = .next t) : P t := by
  obtain ⟨hc, -, -, m⟩ := step_move st
  exact K.move (s := s.popped) hc (hs _ _ h) m

/-- A step takes the oldest entry due and leaves the rest of the schedule as it is (assumption logs 5, 30). -/
theorem step_schedule {s t : State} (st : step s = .next t) : t.sched = s.due.tail ∧ t.cycle = s.cycle := by
  obtain ⟨hc, -, -, m⟩ := step_move st
  have K : Keeps fun u => u.sched = s.due.tail ∧ u.cycle = s.cycle := by
    constructor <;> intros <;> first
      | assumption
      | simp only [State.raiseLine, State.ackLine]
        split <;> assumption
  exact K.move (s := s.popped) hc ⟨rfl, rfl⟩ m

end Sys2Proof.Machine
end

