-- ==== Sys2Proof/Laws/PerInstr.lean ====
section
/-! SUPPORT. The opcode table's row of each operation: the word the encoder gives carries the row's match bits under the row's
mask (spec/opcode_table.json; spec/30_encoding.md R55, R62). -/

namespace Sys2Proof.Laws

/-- A row of the opcode table: its mask and its match. -/
structure TableBits where
  mask : Word64
  pattern : Word64
  deriving DecidableEq, Repr

/-- The row of each operation, as spec/opcode_table.json writes it. -/
def tableBits : Instr → TableBits
  | .setgate _ _ => ⟨0xFF00FFFF00000000#64, 0x0100000000000000#64⟩
  | .loadidt => ⟨0xFFFFFFFFFFFFFFFF#64, 0x0200000000000000#64⟩
  | .picremap => ⟨0xFFFFFFFFFFFFFFFF#64, 0x0300000000000000#64⟩
  | .register _ _ => ⟨0xFF00FFFF00000000#64, 0x0400000000000000#64⟩
  | .enable => ⟨0xFFFFFFFFFFFFFFFF#64, 0x0500000000000000#64⟩
  | .dispatchExc _ => ⟨0xFFFFFFFFFFFFFFE0#64, 0x1000000000000000#64⟩
  | .dispatchReqPrimary _ => ⟨0xFFFFFFFFFFFFFFF8#64, 0x1000000000000020#64⟩
  | .dispatchReqSecondary _ => ⟨0xFFFFFFFFFFFFFFF8#64, 0x1000000000000028#64⟩
  | .dispatchUnrouted _ => ⟨0xFFFFFFFF00000000#64, 0x1000000000000000#64⟩

/-- A word whose fields are concatenated masks as its fields mask. -/
theorem mkWord_and (op op' a8 a8' : Byte) (rsv rsv' : Half) (a32 a32' : Word) :
    mkWord op a8 rsv a32 &&& mkWord op' a8' rsv' a32' =
      mkWord (op &&& op') (a8 &&& a8') (rsv &&& rsv') (a32 &&& a32') := by
  apply BitVec.eq_of_getLsbD_eq
  intro j _
  simp only [BitVec.getLsbD_and, getLsbD_mkWord]
  split
  · rfl
  · split
    · rfl
    · split <;> rfl

/-- Clearing the low `k` bits of an operand leaves the number its high bits are. -/
theorem and_highMask (n : Word) (k c : Nat) (hk : k ≤ 32) (hn : n.toNat / 2 ^ k = c) :
    n &&& BitVec.ofNat 32 (2 ^ 32 - 2 ^ k) = BitVec.ofNat 32 (c * 2 ^ k) := by
  apply BitVec.eq_of_getLsbD_eq
  intro j hj
  have hm : (2 ^ 32 - 2 ^ k : Nat) = (2 ^ (32 - k) - 1) * 2 ^ k := by
    rw [Nat.sub_mul, ← Nat.pow_add]
    congr 2 <;> omega
  simp only [BitVec.getLsbD_and, BitVec.getLsbD_ofNat, hj, decide_true, Bool.true_and, hm, ← hn,
    Nat.testBit_mul_two_pow, Nat.testBit_div_two_pow, Nat.testBit_two_pow_sub_one]
  by_cases h : k ≤ j
  · rw [show j - k + k = j by omega]
    simp [h, BitVec.getLsbD]
    omega
  · simp [h]

namespace TableRow

/-- The word of a well-formed operation lies in the operation's own row of the opcode table. -/
def Statement (i : Instr) : Prop := i.wf = true → encode i &&& (tableBits i).mask = (tableBits i).pattern

theorem setgate (v : Byte) (a : Word) : Statement (.setgate v a) := by
  intro _
  exact (mkWord_and 0x01#8 0xFF#8 v 0#8 0#16 0xFFFF#16 a 0#32).trans (by simp; rfl)

theorem loadidt : Statement .loadidt := fun _ => by decide

theorem picremap : Statement .picremap := fun _ => by decide

theorem register (i : Byte) (h : Word) : Statement (.register i h) := by
  intro _
  exact (mkWord_and 0x04#8 0xFF#8 i 0#8 0#16 0xFFFF#16 h 0#32).trans (by simp; rfl)

theorem enable : Statement .enable := fun _ => by decide

theorem dispatchExc (n : Word) : Statement (.dispatchExc n) := by
  intro wf
  have wf : n.toNat ≤ 31 := by simpa [Instr.wf] using wf
  have h := and_highMask n 5 0 (by omega) (by omega)
  exact (mkWord_and 0x10#8 0xFF#8 0#8 0xFF#8 0#16 0xFFFF#16 n 0xFFFFFFE0#32).trans
    ((congrArg (mkWord _ _ _) h).trans rfl)

theorem dispatchReqPrimary (n : Word) : Statement (.dispatchReqPrimary n) := by
  intro wf
  have wf : 32 ≤ n.toNat ∧ n.toNat ≤ 39 := by simpa [Instr.wf] using wf
  have h := and_highMask n 3 4 (by omega) (by omega)
  exact (mkWord_and 0x10#8 0xFF#8 0#8 0xFF#8 0#16 0xFFFF#16 n 0xFFFFFFF8#32).trans
    ((congrArg (mkWord _ _ _) h).trans rfl)

theorem dispatchReqSecondary (n : Word) : Statement (.dispatchReqSecondary n) := by
  intro wf
  have wf : 40 ≤ n.toNat ∧ n.toNat ≤ 47 := by simpa [Instr.wf] using wf
  have h := and_highMask n 3 5 (by omega) (by omega)
  exact (mkWord_and 0x10#8 0xFF#8 0#8 0xFF#8 0#16 0xFFFF#16 n 0xFFFFFFF8#32).trans
    ((congrArg (mkWord _ _ _) h).trans rfl)

theorem dispatchUnrouted (n : Word) : Statement (.dispatchUnrouted n) := by
  intro _
  exact (mkWord_and 0x10#8 0xFF#8 0#8 0xFF#8 0#16 0xFFFF#16 n 0#32).trans (by simp; rfl)

end TableRow

end Sys2Proof.Laws
end

