-- ==== Sys2Proof/Machine/Asm.lean ====
section
/-! DEFINITION. The assembler syntax, the pseudo-instructions and the reference boot sequence (spec/30_encoding.md R71, R72;
spec/70_reset_and_hazards.md R156). -/

namespace Sys2Proof.Machine

/-- One line of assembly, its operands as written (R71, R72). -/
inductive AsmLine where
  | setgate (vector addr : Nat)
  | lidt
  | picremap
  | register (index hid : Nat)
  | sti
  | dispatch (intNo : Nat)
  | word (w : Nat)
  | setgates (lo hi : Nat)
  | bootIdt
  | boot
  deriving DecidableEq, Repr

/-- `setgate w, TRAMP_ADDR(w)` (R72); `none` where `w` has no trampoline. -/
def setgateTramp (p : Params) (w : Nat) : Option Word64 :=
  (trampAddr p (BitVec.ofNat 8 w)).map fun a => encode (.setgate (BitVec.ofNat 8 w) a)

/-- `setgates lo, hi`: one word per vector, ascending (R72). -/
def setgatesWords (p : Params) (lo hi : Nat) : Option (List Word64) :=
  if lo ≤ hi ∧ hi ≤ 255 then (List.range' lo (hi + 1 - lo)).mapM (setgateTramp p) else none

/-- `boot_idt`: exception gates, remap, request gates, load (R72). -/
def bootIdtWords (p : Params) : Option (List Word64) := do
  let exc ← setgatesWords p 0 31
  let req ← setgatesWords p 32 47
  return exc ++ [encode .picremap] ++ req ++ [encode .loadidt]

/-- `boot`: `boot_idt`, the two registrations, and the enable (R72). -/
def bootWords (p : Params) : Option (List Word64) := do
  let idt ← bootIdtWords p
  return idt ++ [encode (.register 0#8 p.timerH), encode (.register 1#8 p.kbdH), encode .enable]

/-- The words a line assembles to; `none` is an assembly error (R71, R72). -/
def assemble (p : Params) : AsmLine → Option (List Word64)
  | .setgate v a =>
    if v < 256 ∧ a < 2 ^ 32 then some [encode (.setgate (BitVec.ofNat 8 v) (BitVec.ofNat 32 a))] else none
  | .lidt => some [encode .loadidt]
  | .picremap => some [encode .picremap]
  | .register i h =>
    if i < 256 ∧ h < 2 ^ 32 then some [encode (.register (BitVec.ofNat 8 i) (BitVec.ofNat 32 h))] else none
  | .sti => some [encode .enable]
  | .dispatch n => if n < 2 ^ 32 then some [dispatchWord (BitVec.ofNat 32 n)] else none
  | .word w => if w < 2 ^ 64 then some [BitVec.ofNat 64 w] else none
  | .setgates lo hi => setgatesWords p lo hi
  | .bootIdt => bootIdtWords p
  | .boot => bootWords p

/-- The reference boot sequence, the clients' inits written out (R156). -/
def referenceBoot (p : Params) (f : Word) : Option (List HostItem) := do
  let idt ← bootIdtWords p
  return idt.map .word ++ [.timerInit f, .kbdInit, .word (encode .enable)]

/-- The value of a hexadecimal digit. -/
def hexDigit (c : Char) : Option Nat :=
  if '0' ≤ c ∧ c ≤ '9' then some (c.toNat - '0'.toNat)
  else if 'a' ≤ c ∧ c ≤ 'f' then some (c.toNat - 'a'.toNat + 10)
  else if 'A' ≤ c ∧ c ≤ 'F' then some (c.toNat - 'A'.toNat + 10)
  else none

/-- The number written by digits below a base, the digits before it worth `acc`. -/
def digitsFrom (base : Nat) : List Char → Nat → Option Nat
  | [], acc => some acc
  | c :: cs, acc =>
    match hexDigit c with
    | some d => if d < base then digitsFrom base cs (acc * base + d) else none
    | none => none

/-- A number: decimal, or hexadecimal after `0x` (R71). -/
def readNumber : List Char → Option Nat
  | [] => none
  | '0' :: 'x' :: c :: cs => digitsFrom 16 (c :: cs) 0
  | c :: cs => digitsFrom 10 (c :: cs) 0

/-- The words of a line up to its comment; a comma is a word of its own (R71). `cur` is the word being
read, its last character first. -/
def tokens : List Char → List Char → List (List Char)
  | [], cur => if cur.isEmpty then [] else [cur.reverse]
  | c :: cs, cur =>
    let done := if cur.isEmpty then [] else [cur.reverse]
    if c = ';' then done
    else if c = ',' then done ++ [[',']] ++ tokens cs []
    else if c = ' ' ∨ c = '\t' then done ++ tokens cs []
    else tokens cs (c :: cur)

/-- A line with two numbers as its operands. -/
def twoNumbers (f : Nat → Nat → AsmLine) (x y : List Char) : Option AsmLine := do
  let a ← readNumber x
  let b ← readNumber y
  return f a b

/-- One line of assembly text (R71, R72): `some none` is a line without a command, `none` an error. -/
def parseLine (line : List Char) : Option (Option AsmLine) :=
  match tokens line [] with
  | [] => some none
  | [m] =>
    if m = "lidt".toList then some (some .lidt)
    else if m = "picremap".toList then some (some .picremap)
    else if m = "sti".toList then some (some .sti)
    else if m = "boot_idt".toList then some (some .bootIdt)
    else if m = "boot".toList then some (some .boot)
    else none
  | [m, x] =>
    if m = "dispatch".toList then (readNumber x).map fun n => some (.dispatch n)
    else if m = ".word".toList then (readNumber x).map fun n => some (.word n)
    else none
  | [m, x, [','], y] =>
    if m = "setgate".toList then (twoNumbers .setgate x y).map some
    else if m = "register".toList then (twoNumbers .register x y).map some
    else if m = "setgates".toList then (twoNumbers .setgates x y).map some
    else none
  | _ => none

end Sys2Proof.Machine
end

