-- ==== Sys2Proof/Tests/Slice0.lean ====
section
/-! SUPPORT. Tests on fixed values, their results taken from spec/95_test_vectors.md (the vector's id stands in each comment)
or worked out by hand from the rule named; and, for each statement with hypotheses, a state and operands that meet
them together (witness_<statement>), at boundary values where a statement has several clauses. -/

namespace Sys2Proof.Tests

open Sys2Proof Sys2Proof.Machine

/-! ## States -/

/-- The common configuration with concrete open values (95_test_vectors, Common configuration). -/
def cfg : Params := Config.common (Vector.replicate 21 ['M']) 0x58#8

def s0 : State := State.resetWith cfg ResetDraw.zero Outside.none

/-- The state an operation leaves, or the same state where it leaves none. -/
def after (i : Instr) (s : State) : State :=
  match exec i s with
  | .next t => t
  | .fault _ => s
  | .refused _ => s

def afterAll : List Instr → State → State
  | [], s => s
  | i :: is, s => afterAll is (after i s)

/-- A small boot: gates 3, 6 (vector 7's trampoline), 32 and 44, the clients, the enable. -/
def booted : State :=
  afterAll
    [.setgate 3#8 0x00101030#32, .setgate 6#8 0x00101070#32, .picremap, .setgate 32#8 0x00101200#32,
      .setgate 44#8 0x001012C0#32, .loadidt, .register 0#8 1#32, .register 1#8 2#32, .enable] s0

/-- The same before the enable. -/
def unbooted : State := { booted with running := false, intFlag := false }

def cpu : CpuRegs := CpuRegs.zero

def snapOf (n : Word) : Snapshot := { intNo := n, errCode := none, cpu := cpu }

/-- A trampoline about to call DISPATCH, one inside the call, and one whose call has returned. -/
def issuing (n : Word) : Frame := .tramp cpu (.issue (snapOf n))
def calling (n : Word) : Frame := .tramp cpu (.called (snapOf n))
def returning : Frame := .tramp cpu .ret

/-- The booted machine with frames open, at depth `d`. -/
def inside (fs : List Frame) : State :=
  { booted with frames := fs, depth := 1, ifsave := [true], intFlag := false }

/-- The machine after one step, or the same where there is none. -/
def stepped (s : State) : State :=
  match step s with
  | .next t => t
  | .fault _ => s
  | .refused _ => s

def isNext : Host.Outcome State Fault Refusal → Bool
  | .next _ => true
  | .fault _ => false
  | .refused _ => false

/-! ## WellFormed: an ill-formed term for each check (R62) -/

theorem test_exc_32_ill_formed : (Instr.dispatchExc 32#32).wf = false := by decide
theorem test_primary_31_ill_formed : (Instr.dispatchReqPrimary 31#32).wf = false := by decide
theorem test_primary_40_ill_formed : (Instr.dispatchReqPrimary 40#32).wf = false := by decide
theorem test_secondary_39_ill_formed : (Instr.dispatchReqSecondary 39#32).wf = false := by decide
theorem test_secondary_48_ill_formed : (Instr.dispatchReqSecondary 48#32).wf = false := by decide
theorem test_unrouted_47_ill_formed : (Instr.dispatchUnrouted 47#32).wf = false := by decide

/-! ## Decoding words written out from the encodings (R53 to R63) -/

-- V-E1
theorem test_decode_setgate : decode .host 0x0121000000101210#64 = some (.setgate 33#8 0x00101210#32) := by decide
-- V-E2
theorem test_decode_loadidt : decode .host 0x0200000000000000#64 = some .loadidt := by decide
-- R58
theorem test_decode_picremap : decode .host 0x0300000000000000#64 = some .picremap := by decide
-- R59, V-E16
theorem test_decode_register : decode .host 0x0410000000000001#64 = some (.register 16#8 1#32) := by decide
-- R60
theorem test_decode_enable : decode .host 0x0500000000000000#64 = some .enable := by decide
-- V-E10, V-E11
theorem test_decode_exc : decode .tramp 0x1000000000000000#64 = some (.dispatchExc 0#32) ∧
    decode .tramp 0x100000000000001F#64 = some (.dispatchExc 31#32) := by decide
-- R62: the first primary number, and V-E12
theorem test_decode_primary : decode .tramp 0x1000000000000020#64 = some (.dispatchReqPrimary 32#32) ∧
    decode .tramp 0x1000000000000027#64 = some (.dispatchReqPrimary 39#32) := by decide
-- V-E13, and R62: the last secondary number
theorem test_decode_secondary : decode .tramp 0x1000000000000028#64 = some (.dispatchReqSecondary 40#32) ∧
    decode .tramp 0x100000000000002F#64 = some (.dispatchReqSecondary 47#32) := by decide
-- V-E14, V-E15
theorem test_decode_unrouted : decode .tramp 0x1000000000000030#64 = some (.dispatchUnrouted 48#32) ∧
    decode .tramp 0x10000000FFFFFFFF#64 = some (.dispatchUnrouted 0xFFFFFFFF#32) := by decide
-- V-E3, V-E4, V-E5, V-E6, V-E8, V-E17
theorem test_illegal_host : decode .host 0x0000000000000000#64 = none ∧
    decode .host 0x0201000000000000#64 = none ∧ decode .host 0x0100000100000000#64 = none ∧
    decode .host 0x1000000000000020#64 = none ∧ decode .host 0xFF00000000000000#64 = none ∧
    decode .host 0x0500000000000001#64 = none := by decide
-- V-E7, V-E9
theorem test_illegal_tramp : decode .tramp 0x0500000000000000#64 = none ∧
    decode .tramp 0x1001000000000000#64 = none := by decide

/-! ## Operations -/

-- V-G5: the bytes of slot 33 after the remap
theorem test_setgate_bytes : (List.range 8).map (fun i =>
      (after (.setgate 33#8 0x00101210#32) (after .picremap s0)).mem.read (0x00105108 + i)) =
    [0x10#8, 0x12#8, 0x08#8, 0x00#8, 0x00#8, 0x8E#8, 0x10#8, 0x00#8] := by decide
-- V-G13: LateGateWrite is checked before GateBeforeRemap
theorem test_setgate_check_order : (after (.setgate 32#8 0x00101200#32) (after .loadidt s0)).fault =
    some .lateGateWrite := by decide
-- V-L1
theorem test_loadidt : (after .loadidt s0).idtr = { base := 0x00105000#32, limit := 0x07FF#16 } ∧
    (after .loadidt s0).hist = [.lidt 0x00105000#32 0x07FF#16] := by decide
-- R68: the six bytes of the image
theorem test_idtr_image : (after .loadidt s0).idtr.image =
    [0xFF#8, 0x07#8, 0x00#8, 0x50#8, 0x10#8, 0x00#8] := by decide
-- V-P2, the primary chip
theorem test_picremap_primary : (after .picremap s0).picP =
    { initStep := .ready, ic4 := true, sngl := false, base := 0x20#8, cascade := 0x04#8, mode := 0x01#8,
      imr := 0x00#8, irr := 0x00#8, isr := 0x00#8 } := by decide
-- V-P5: LateRemap is checked before DoubleRemap
theorem test_picremap_check_order : (after .picremap booted).fault = some .lateRemap := by decide
-- V-R8
theorem test_register_last_slot : (after (.register 15#8 0xFFFFFFFF#32) s0).reg[15] = 0xFFFFFFFF#32 := by decide
-- V-R6: BadIndex is checked before LateRegister
theorem test_register_check_order : (after (.register 16#8 5#32) booted).fault = some .badIndex := by decide
-- V-N3: EnableBeforeLoad is checked before EnableBeforeRemap
theorem test_enable_check_order : (after .enable (after .picremap s0)).hist.getLast? =
    some (.fault .enableBeforeLoad) := by decide
-- V-N4
theorem test_enable : (after .enable (after .loadidt (after .picremap s0))).intFlag = true ∧
    (after .enable (after .loadidt (after .picremap s0))).running = true := by decide
-- V-D4
theorem test_report_31 : (after (.dispatchExc 31#32) s0).hist =
    [.sp "Received interrupt: 31\nReserved\n".toList] := by decide
-- V-D4h
theorem test_report_halt : (after (.dispatchExc 31#32) { s0 with cfg := { cfg with excPolicy := .halt } }).halted =
    true := by decide
-- V-D5, up to the CALL
theorem test_request_timer : (after (.dispatchReqPrimary 32#32) { booted with hist := [] }).hist =
    [.pw 0x20#16 0x20#8, .call 0#4 1#32 32#32] := by decide
-- V-D7
theorem test_request_empty_primary : (after (.dispatchReqPrimary 39#32) { booted with hist := [] }).hist =
    [.pw 0x20#16 0x20#8] := by decide
-- V-D8
theorem test_request_empty_secondary : (after (.dispatchReqSecondary 40#32) { booted with hist := [] }).hist =
    [.pw 0xA0#16 0x20#8, .pw 0x20#16 0x20#8] := by decide
-- V-D10
theorem test_request_unknown : (after (.dispatchReqSecondary 44#32)
      (after (.register 12#8 9#32) { s0 with hist := [] })).hist =
    [.pw 0xA0#16 0x20#8, .pw 0x20#16 0x20#8, .fault .unknownHandler] := by decide
-- V-D11
theorem test_unrouted : (after (.dispatchUnrouted 48#32) s0).fault = some .unroutedVector := by decide

/-! ## Devices, delivery, clients -/

-- V-P7
theorem test_eoi_lowest_bit : ({ Pic.zero with isr := 0x05#8 }.command 0x20#8).isr = 0x04#8 := by decide
-- V-P3, lines 3 and 12
theorem test_line_vectors : booted.lineVector 3#4 = 35#8 ∧ booted.lineVector 12#4 = 44#8 := by decide
-- V-P9
theorem test_raise_2_is_no_step : isNext (step { booted with sched := [.raise 2#4] }) = false := by decide
-- V-X1
theorem test_delivery_before_load : (stepped { s0 with sched := [.exc 0#5 none cpu] }).fault =
    some .idtNotLoaded := by decide
-- V-X2
theorem test_delivery_unwritten : (stepped { booted with sched := [.exc 0#5 none cpu] }).fault =
    some .gateNotWritten := by decide
-- V-X3
theorem test_delivery_bad_target : (stepped
      { after .loadidt (after (.setgate 5#8 0xDEAD0000#32) s0) with sched := [.exc 5#5 none cpu] }).fault =
    some .badGateTarget := by decide
-- V-X4: slot 6 holds vector 7's trampoline
theorem test_delivery_records_both : (stepped
      { booted with hist := [], sched := [.exc 6#5 none cpu] }).hist = [.dlv 6#8 7#8] := by decide
-- V-X6, the acknowledge
theorem test_request_delivery : (stepped
      { booted with picP := booted.picP.raiseInput 0, sched := [.req 0#4 cpu] }).picP.isr = 0x01#8 := by decide
-- V-X7: no request while IF is 0
theorem test_no_request_inside : isNext (step
      { inside [returning] with
        picP := booted.picP.raiseInput 0, sched := [.req 0#4 cpu] }) = false := by decide
-- R93: the snapshot is gone once DISPATCH has returned, here with no client and after a client's return
theorem test_snapshot_ends : (stepped (inside [issuing 39#32])).frames = [returning] ∧
    (stepped (inside [.client 0#4 1#32 .leave, calling 32#32])).frames = [returning] := by decide
-- R93, R104: it exists while the client runs
theorem test_snapshot_lives : openSnaps (stepped (inside [issuing 32#32])).frames = [snapOf 32#32] := by decide
-- R159: the schedule that repeats a client's own step never lets it return
theorem test_client_loops : (stepped (stepped
      { inside [.client 4#4 3#32 (.free []), calling 36#32] with cycle := [.act .own] })).frames =
    [.client 4#4 3#32 (.free []), calling 36#32] := by decide
-- V-T7
theorem test_tick_wraps : (stepped
      { inside [.client 0#4 1#32 .timerStart] with tick := 0xFFFFFFFF#32 }).tick = 0#32 := by decide
-- V-T1: the divisor bytes of 100 hertz; V-T5b: those of 1 hertz
theorem test_timer_writes : timerWrites cfg 100#32 = [(0x43#16, 0x36#8), (0x40#16, 0x9B#8), (0x40#16, 0x2E#8)] ∧
    timerWrites cfg 1#32 = [(0x43#16, 0x36#8), (0x40#16, 0xDC#8), (0x40#16, 0x34#8)] := by decide
-- V-T5e
theorem test_timer_zero : (s0.timerInit 0#32).hist = [.fault .timerDivideByZero] := by decide
-- V-K2: a release code above SC_MAX
theorem test_kbd_drop : (stepped
      { inside [.client 1#4 2#32 .kbdStart] with portIn := [0x9E#8] }).frames = [.client 1#4 2#32 .leave] := by decide
-- R101: the words P1 gives for `register 1, 2` and `setgate 47`
theorem test_encode : encode (.register 1#8 2#32) = 0x0401000000000002#64 ∧
    encode (.setgate 47#8 0x001012F0#32) = 0x012F0000001012F0#64 := by decide
-- V-L5, R40
theorem test_wrapping_base_refused : idtFits { cfg with idtBase := 0xFFFFF801#32 } = false ∧
    idtFits { cfg with idtBase := 0xFFFFF800#32 } = true := by decide
-- R71: a line of assembly and its word
theorem test_assembly_line : parseLine "setgate 0x21, 0x00101210 ; gate".toList =
    some (some (.setgate 33 0x00101210)) := by decide
-- R71: an operand out of its field's range is an error
theorem test_assembly_range : assemble cfg (.setgate 256 0) = none := by decide
-- R72: `setgates` in ascending order
theorem test_setgates : assemble cfg (.setgates 0 1) =
    some [0x0100000000101000#64, 0x0101000000101010#64] := by decide

/-! ## Witnesses: a state and operands that meet a statement's hypotheses -/

theorem next_of_isNext {o : Host.Outcome State Fault Refusal} (h : isNext o = true) : ∃ t, o = .next t := by
  cases o with
  | next t => exact ⟨t, rfl⟩
  | fault r => cases h
  | refused r => cases h

theorem live_s0 : s0.Live := by unfold State.Live; decide
theorem live_booted : booted.Live := by unfold State.Live; decide

/-- Gates of vectors 39 and 40 and an empty registry, enabled: the lines where the chips meet. -/
def edges : State :=
  afterAll [.picremap, .setgate 39#8 0x00101270#32, .setgate 40#8 0x00101280#32, .loadidt, .enable] s0

/-- A third client, with one port, in every registry slot. -/
def third : State :=
  { booted with cfg := { cfg with others := [(3#32, [0x02F8#16])] }, reg := Vector.replicate 16 3#32 }

/-- An id no client has in every registry slot. -/
def stray : State := { booted with reg := Vector.replicate 16 9#32 }

/-- A free client with ports 0x02F8 and, against the port map, the two PIC command ports. -/
def freeClient : Frame := .client 4#4 3#32 (.free [0x02F8#16, 0x20#16, 0xA0#16])

/-- The free client about to take a step. -/
def acting (a : ClientAct) : State := { inside [freeClient, calling 36#32] with sched := [.act a] }

/-- One gate written, its table loaded. -/
def oneGate : State := after .loadidt (after (.setgate 5#8 0x00101050#32) s0)

/-- The one-gate machine with a line about to rise. -/
def oneGateRaise : State := { oneGate with sched := [.raise 15#4] }

theorem witness_DecodeOfEncode : (Instr.setgate 255#8 0xFFFFFFFF#32).wf = true ∧
    (Instr.dispatchExc 31#32).wf = true ∧
    (Instr.dispatchReqPrimary 32#32).wf = true ∧ (Instr.dispatchReqPrimary 39#32).wf = true ∧
    (Instr.dispatchReqSecondary 40#32).wf = true ∧ (Instr.dispatchReqSecondary 47#32).wf = true ∧
    (Instr.dispatchUnrouted 48#32).wf = true ∧ CmdPort.tramp ≠ Instr.enable.port := by decide

theorem witness_EncodeOfDecode :
    decode .host 0x01FF0000FFFFFFFF#64 = some (.setgate 255#8 0xFFFFFFFF#32) ∧
    decode .tramp 0x1000000000000030#64 = some (.dispatchUnrouted 48#32) := by decide

theorem witness_IllegalWordsRaiseIllegalCommand : decode .host 0x0600000000000000#64 = none ∧
    decode .host 0x0400000100000000#64 = none ∧ decode .host 0x0301000000000000#64 = none ∧
    decode .tramp 0x0500000000000000#64 = none ∧ decode .tramp 0x10FF000000000000#64 = none ∧
    s0.fault = none := by decide

theorem witness_StepRunsHostWord :
    let s := { unbooted with prog := [.word 0x0500000000000000#64] }
    let u := { unbooted with prog := [.word 0x0410000000000001#64] }
    (s.Live ∧ s.SoftwareNext ∧ s.frames = [] ∧ s.hostPending = [] ∧
      s.prog[s.hostIndex]? = some (.word 0x0500000000000000#64) ∧
      decode .host 0x0500000000000000#64 = some .enable ∧ isNext (exec .enable s.popped) = true ∧
      (after .enable s.popped).fault = none) ∧
    (u.Live ∧ u.SoftwareNext ∧ u.frames = [] ∧ u.hostPending = [] ∧
      u.prog[u.hostIndex]? = some (.word 0x0410000000000001#64) ∧
      decode .host 0x0410000000000001#64 = some (.register 16#8 1#32) ∧
      isNext (exec (.register 16#8 1#32) u.popped) = true ∧
      (after (.register 16#8 1#32) u.popped).fault = some .badIndex) ∧
    (let x := { unbooted with prog := [.word 0x0600000000000000#64] };
      x.Live ∧ x.SoftwareNext ∧ x.frames = [] ∧ x.hostPending = [] ∧
        x.prog[x.hostIndex]? = some (.word 0x0600000000000000#64) ∧
        decode .host 0x0600000000000000#64 = none) := by
  unfold State.Live State.SoftwareNext; decide

theorem witness_StepRunsTrampolineDispatch :
    ∀ n ∈ [32#32, 39#32, 48#32],
      let s := inside [issuing n]
      s.Live ∧ s.SoftwareNext ∧ s.frames = [issuing n] ∧
        decode .tramp (dispatchWord n) = some (decodeIntNo n) ∧
        isNext (exec (decodeIntNo n) { s.popped with frames := [calling n] }) = true := by
  intro n hn
  unfold State.Live State.SoftwareNext
  fin_cases hn <;> decide

theorem witness_StepRunsClientHostCommand :
    let s := acting (.host 0x0500000000000000#64)
    s.Live ∧ s.frames = [freeClient, calling 36#32] ∧
      s.due = [.act (.host 0x0500000000000000#64)] ∧
      decode .host 0x0500000000000000#64 = some .enable ∧
      (acting (.host 0#64)).Live ∧ (acting (.host 0#64)).due = [.act (.host 0#64)] ∧
      decode .host 0#64 = none := by
  unfold State.Live; decide

theorem witness_StoppedStatesHaveNoStep :
    idtFits { cfg with idtBase := 0xFFFFF801#32 } = false ∧
    (idtFits s0.cfg = true ∧ (s0.raise .badIndex).fault = some .badIndex) ∧
    (s0.fault = none ∧ { s0 with halted := true }.halted = true) ∧
    (s0.halted = false ∧ { s0 with sched := [.run] }.SoftwareNext ∧ { s0 with sched := [.run] }.isFinal ∧
      { s0 with halted := true }.isFinal) :=
  ⟨by decide, by decide, by decide, by decide, rfl,
    ⟨by decide, .inr (by unfold State.SoftwareDone; decide)⟩, by decide, .inl (by decide)⟩

/-- A host with one command before it. -/
def waiting : State := { s0 with prog := [.kbdInit] }

/-- The run of `waiting` after one line raise: the raise, the command, and the idle host. -/
theorem waiting_stops (n : Nat) (u : State) : ¬{ waiting with sched := [.raise 3#4] }.Reaches (n + 3) u := by
  intro h
  unfold State.Reaches at h
  rw [core_run_succ (s := { waiting with sched := [.raise 3#4] }) (n + 2) rfl, core_run_succ (n + 1) rfl] at h
  refine core_run_stop n (fun t ht => ?_) u h
  cases (show Host.Outcome.fault Fault.idle = .next t from ht)

/-- Fair schedules, one that starves the host, and a fair run of a line raise and a host command. -/
theorem witness_FairRunsLetTheSoftwareEnd :
    let starved := { waiting with cycle := [.raise 3#4] }
    let s := { waiting with sched := [.raise 3#4] }
    (waiting.cycle = [] ∧ ∃ c ∈ { waiting with cycle := [.raise 0#4, .act .own] }.cycle, c.isEnvironment = false) ∧
    (starved.Live ∧ ¬starved.SoftwareDone ∧ 3#4 ≠ 2#4 ∧ starved.sched = []) ∧
    (s.Fair ∧ s.Reaches 0 s ∧ ¬s.SoftwareDone ∧ ∀ c ∈ s.sched ++ s.cycle, c = .run ∨ ∃ l, c = .raise l) := by
  refine ⟨⟨rfl, .act .own, by decide, rfl⟩,
    ⟨by unfold State.Live; decide, by unfold State.SoftwareDone; decide, by decide, rfl⟩,
    fun n t _ _ => ⟨n + 3, by omega, fun u h => absurd h (waiting_stops n u)⟩, rfl,
    by unfold State.SoftwareDone; decide, fun c hc => .inr ⟨3#4, ?_⟩⟩
  simpa using (show c ∈ [Choice.raise 3#4] from hc)

theorem witness_SetgateWritesTheGateOrFaults :
    (s0.loaded = false ∧ (32 ≤ (31#8).toNat ∧ (31#8).toNat ≤ 47 → s0.remapped = true) ∧
      (32 ≤ (48#8).toNat ∧ (48#8).toNat ≤ 47 → s0.remapped = true)) ∧
    ((after .picremap s0).loaded = false ∧ (after .picremap s0).remapped = true) ∧
    (booted.fault = none ∧ booted.loaded = true) ∧
    (s0.fault = none ∧ s0.loaded = false ∧ 32 ≤ (32#8).toNat ∧ (47#8).toNat ≤ 47 ∧ s0.remapped = false) := by
  decide

theorem witness_SetgateOverwriteReplacesTheSlot :
    (after .picremap s0).loaded = false ∧
    (32 ≤ (47#8).toNat ∧ (47#8).toNat ≤ 47 → (after .picremap s0).remapped = true) := by decide

theorem witness_LoadidtLoadsIdtrOnce :
    s0.loaded = false ∧ booted.fault = none ∧ booted.loaded = true := by decide

theorem witness_LimitCoversEverySlot :
    let s := { s0 with cfg := { cfg with idtBase := 0xFFFFF800#32 } }
    idtFits s.cfg = true ∧ s.loaded = false := by decide

theorem witness_TableFixedAfterLoad : booted.loaded = true ∧
    ∃ t, step { booted with sched := [.exc 3#5 none cpu] } = .next t :=
  ⟨by decide, next_of_isNext (by decide)⟩

theorem witness_PicremapProgramsBothChipsOrFaults :
    (s0.running = false ∧ s0.remapped = false) ∧ (booted.fault = none ∧ booted.running = true) ∧
    (unbooted.fault = none ∧ unbooted.running = false ∧ unbooted.remapped = true) := by decide

theorem witness_RemappedLinesRaiseVectors32Up :
    booted.picP.Programmed 0x20#8 0x04#8 ∧ booted.picS.Programmed 0x28#8 0x02#8 := by
  unfold Pic.Programmed; decide

theorem witness_PicPortWritesFollowTheSequence :
    (0x10#8).getLsbD 4 = true ∧
    (∀ i ∈ [PicInit.w2, .w3, .w4, .ready],
      let s := { s0 with picP := { Pic.zero with initStep := i }, picS := { Pic.zero with initStep := i } }
      s.picP.initStep = i ∧ s.picS.initStep = i) := by decide

theorem witness_NonSpecificEoiClearsTheLowestBit : Pic.zero.isr = 0#8 ∧
    let s := acting (.portWrite 0x20#16 0x60#8)
    let u := acting (.portWrite 0xA0#16 0xE0#8)
    (s.Live ∧ s.frames = [freeClient, calling 36#32] ∧
      0x20#16 ∈ [0x02F8#16, 0x20#16, 0xA0#16] ∧ s.due = [.act (.portWrite 0x20#16 0x60#8)] ∧
      (0x60#8).getLsbD 4 = false ∧ 0x60#8 ≠ 0x20#8) ∧
    (u.Live ∧ u.frames = [freeClient, calling 36#32] ∧
      0xA0#16 ∈ [0x02F8#16, 0x20#16, 0xA0#16] ∧ u.due = [.act (.portWrite 0xA0#16 0xE0#8)] ∧
      (0xE0#8).getLsbD 4 = false ∧ 0xE0#8 ≠ 0x20#8) := by
  unfold State.Live; decide

theorem witness_EoiSequenceAcknowledges : 8 ≤ (8#4).toNat ∧ (7#4).toNat ≤ 7 := by decide

theorem witness_RaiseSetsThePendingBit :
    (∀ l ∈ [2#4, 0#4, 7#4, 8#4, 15#4],
      let s := { booted with sched := [.raise l] }
      s.Live ∧ s.due = [.raise l]) ∧
    (7#4 ≠ 2#4 ∧ (7#4).toNat < 8) ∧ 8 ≤ (8#4).toNat ∧
    (booted.raiseLine 7#4).picP.irr.getLsbD (7#4).toNat = true ∧
    (booted.raiseLine 8#4).picS.irr.getLsbD ((8#4).toNat - 8) = true := by
  unfold State.Live; decide

theorem witness_RegisterStoresTheHandlerOrFaults :
    ((15#8).toNat < 16 ∧ s0.running = false) ∧ (s0.fault = none ∧ 16 ≤ (16#8).toNat) ∧
    (booted.fault = none ∧ (15#8).toNat < 16 ∧ booted.running = true) := by decide

theorem witness_LastRegistrationWins : (15#8).toNat < 16 ∧ (0#8).toNat < 16 ∧ s0.running = false := by decide

theorem witness_RegistryFixedWhileRunning : booted.running = true ∧
    ∃ t, step { booted with prog := [.word 0x0400000000000005#64] } = .next t :=
  ⟨by decide, next_of_isNext (by decide)⟩

theorem witness_EnableStartsTheRunningPhaseOrFaults :
    (unbooted.depth = 0 ∧ unbooted.loaded = true ∧ unbooted.remapped = true) ∧
    ((inside []).fault = none ∧ 0 < (inside []).depth) ∧
    (s0.fault = none ∧ s0.depth = 0 ∧ s0.loaded = false) ∧
    ((after .loadidt s0).fault = none ∧ (after .loadidt s0).depth = 0 ∧ (after .loadidt s0).loaded = true ∧
      (after .loadidt s0).remapped = false) := by decide

theorem witness_SecondEnableOnlyAddsSti :
    booted.PhaseInv ∧ booted.EnabledInv ∧ booted.running = true ∧ booted.depth = 0 := by
  unfold State.PhaseInv State.EnabledInv State.LevelInv; decide

theorem witness_ExceptionIsReported : (31#32).toNat ≤ 31 ∧ s0.halted = false ∧
    (20#32).toNat < 21 ∧ 21 ≤ (21#32).toNat := by decide

theorem witness_DispatchRunsMasked :
    let s := inside [issuing 32#32]
    (s.MaskInv ∧ s.SoftwareNext ∧ s.frames = [issuing 32#32]) ∧ ∃ t, step s = .next t :=
  ⟨by unfold State.MaskInv State.LevelInv State.SoftwareNext; decide, next_of_isNext (by decide)⟩

theorem witness_EmptySlotOnlyAcknowledges :
    (∀ n ∈ [32#32, 39#32], 32 ≤ n.toNat ∧ n.toNat ≤ 39 ∧ s0.reg[n.toNat - 32]? = some 0#32) ∧
    (∀ n ∈ [40#32, 47#32], 40 ≤ n.toNat ∧ n.toNat ≤ 47 ∧ s0.reg[n.toNat - 32]? = some 0#32) :=
  ⟨fun n hn => by fin_cases hn <;> decide, fun n hn => by fin_cases hn <;> decide⟩

theorem witness_RegisteredHandlerIsInvoked :
    (∀ n ∈ [32#32, 39#32, 40#32, 47#32], third.reg[n.toNat - 32]? = some 3#32) ∧ 3#32 ≠ 0#32 ∧
    clientOf third.cfg 3#32 = some (.other [0x02F8#16]) ∧
    (32 ≤ (39#32).toNat ∧ (39#32).toNat ≤ 39) ∧ (40 ≤ (40#32).toNat ∧ (40#32).toNat ≤ 47) ∧
    (booted.reg[(32#32).toNat - 32]? = some 1#32 ∧ clientOf booted.cfg 1#32 = some .timer) :=
  ⟨fun n hn => by fin_cases hn <;> decide, by decide⟩

theorem witness_UnknownHandlerFaultsAfterEoi : stray.fault = none ∧
    (∀ n ∈ [32#32, 39#32, 40#32, 47#32], stray.reg[n.toNat - 32]? = some 9#32) ∧ 9#32 ≠ 0#32 ∧
    clientOf stray.cfg 9#32 = none ∧ (32 ≤ (39#32).toNat ∧ (39#32).toNat ≤ 39) ∧
    (40 ≤ (40#32).toNat ∧ (40#32).toNat ≤ 47) :=
  ⟨by decide, fun n hn => by fin_cases hn <;> decide, by decide⟩

theorem witness_AcknowledgeComesBeforeTheCall :
    (32 ≤ (39#32).toNat ∧ (39#32).toNat ≤ 39 ∧ ∃ t, exec (.dispatchReqPrimary 39#32) third = .next t) ∧
    (40 ≤ (40#32).toNat ∧ (40#32).toNat ≤ 47 ∧ ∃ t, exec (.dispatchReqSecondary 40#32) third = .next t) :=
  ⟨⟨by decide, by decide, next_of_isNext (by decide)⟩, by decide, by decide, next_of_isNext (by decide)⟩

theorem witness_UnroutedNumberFaults : 48 ≤ (48#32).toNat ∧ s0.fault = none := by decide

theorem witness_ExceptionDeliveryEntersTheTrampoline :
    let s := { booted with sched := [.exc 6#5 (some 0#32) cpu] }
    s.Live ∧ s.due = [.exc 6#5 (some 0#32) cpu] ∧ s.loaded = true ∧
      s.gateWritten ((6#5).setWidth 8) = true ∧
      (s.mem.load (slotAddr s.idtr.base ((6#5).setWidth 8)) 8).getLsbD 47 = true ∧
      trampAt s.cfg (gateAddr (s.mem.load (slotAddr s.idtr.base ((6#5).setWidth 8)) 8)) = some 7#8 := by
  unfold State.Live; decide

theorem witness_DeliveryFaultsInOrder :
    let absent := after .loadidt (after (.setgate 5#8 0x00101050#32)
      { s0 with cfg := { cfg with gateFlags := 0x0E#8 } })
    let wild := after .loadidt (after (.setgate 5#8 0xDEAD0000#32) s0)
    (∀ s ∈ [s0, booted, absent, wild], { s with sched := [.exc 5#5 none cpu] }.Live) ∧
    s0.FetchFails 5#8 .idtNotLoaded ∧ booted.FetchFails 5#8 .gateNotWritten ∧
    absent.FetchFails 5#8 .gateNotPresent ∧ wild.FetchFails 5#8 .badGateTarget := by
  unfold State.Live State.FetchFails; decide

/-- The enabled machine whose slots 32 to 47 are as given, and a line about to be delivered. -/
def offered (l : Line) (is : List Instr) (p : Params) : State :=
  { (afterAll (.picremap :: is ++ [.loadidt, .enable]) { s0 with cfg := p }).raiseLine l with
    sched := [.req l cpu] }

/-- The request form, each fault at the lines where the chips meet; the table is never unloaded while IF is 1
in a run, so the first fault has a state of its own. -/
theorem witness_DeliveryFaultsInOrder_request :
    (∀ l ∈ [7#4, 8#4],
      let s := { offered l [] cfg with loaded := false }
      s.Live ∧ s.due = [.req l cpu] ∧ s.intFlag = true ∧ s.offersLine l = true ∧
        s.FetchFails (s.lineVector l) .idtNotLoaded) ∧
    (∀ l ∈ [7#4, 8#4],
      let s := offered l [] cfg
      s.Live ∧ s.due = [.req l cpu] ∧ s.intFlag = true ∧ s.offersLine l = true ∧
        s.FetchFails (s.lineVector l) .gateNotWritten) ∧
    (let s := offered 7#4 [.setgate 39#8 0x00101270#32] { cfg with gateFlags := 0x0E#8 };
      s.Live ∧ s.due = [.req 7#4 cpu] ∧ s.intFlag = true ∧ s.offersLine 7#4 = true ∧
        s.FetchFails (s.lineVector 7#4) .gateNotPresent) ∧
    (let s := offered 8#4 [.setgate 40#8 0xDEAD0000#32] cfg;
      s.Live ∧ s.due = [.req 8#4 cpu] ∧ s.intFlag = true ∧ s.offersLine 8#4 = true ∧
        s.FetchFails (s.lineVector 8#4) .badGateTarget) := by
  unfold State.Live State.FetchFails
  refine ⟨fun l hl => ?_, fun l hl => ?_, by decide, by decide⟩ <;> fin_cases hl <;> decide

theorem witness_RequestDeliveryAcknowledgesTheLine :
    ∀ x ∈ [(7#4, 39#8), (8#4, 40#8)],
      let s := { edges.raiseLine x.1 with sched := [.req x.1 cpu] }
      s.Live ∧ s.due = [.req x.1 cpu] ∧ s.intFlag = true ∧ s.offersLine x.1 = true ∧ s.loaded = true ∧
        s.gateWritten (s.lineVector x.1) = true ∧
        (s.mem.load (slotAddr s.idtr.base (s.lineVector x.1)) 8).getLsbD 47 = true ∧
        trampAt s.cfg (gateAddr (s.mem.load (slotAddr s.idtr.base (s.lineVector x.1)) 8)) = some x.2 := by
  unfold State.Live
  intro x hx
  fin_cases hx <;> decide

/-- A request that is taken on each chip; IF at 0; a masked line, one not pending, line 2, and a secondary line with
the primary's input 2 masked; and a request inside a delivery. -/
theorem witness_RequestNeedsIfAndAnOffer :
    (∀ l ∈ [7#4, 8#4],
      let s := offered l [] cfg
      s.Live ∧ s.due = [.req l cpu] ∧ s.intFlag = true ∧ s.offersLine l = true) ∧
    (∀ l ∈ [7#4, 8#4],
      let s := { offered l [] cfg with intFlag := false }
      s.Live ∧ s.due = [.req l cpu] ∧ s.intFlag = false ∧ s.offersLine l = true) ∧
    (∀ x ∈ [(7#4, 0x80#8), (8#4, 0x04#8), (2#4, 0x00#8)],
      let s := (offered x.1 [] cfg).portWrite 0x21#16 x.2
      s.Live ∧ s.due = [.req x.1 cpu] ∧ s.intFlag = true ∧ s.offersLine x.1 = false) ∧
    (let s := { booted with sched := [.req 7#4 cpu] };
      s.Live ∧ s.due = [.req 7#4 cpu] ∧ s.intFlag = true ∧ s.offersLine 7#4 = false) ∧
    (let s := { inside [returning] with sched := [.req 0#4 cpu] };
      s.Live ∧ s.MaskInv ∧ 0 < s.depth ∧ s.due = [.req 0#4 cpu]) := by
  unfold State.Live State.MaskInv State.LevelInv
  refine ⟨fun l hl => ?_, fun l hl => ?_, fun x hx => ?_, by decide, by decide⟩
  · fin_cases hl <;> decide
  · fin_cases hl <;> decide
  · fin_cases hx <;> decide

theorem witness_TrapReturnRestoresIf :
    let s := inside [returning]
    s.Live ∧ s.SoftwareNext ∧ s.frames = [returning] ∧ s.ifsave = [true] := by
  unfold State.Live State.SoftwareNext; decide

theorem witness_OpenSnapshotsStayAsBuilt :
    ∀ s ∈ [inside [issuing 32#32], inside [issuing 39#32], { booted with sched := [.exc 3#5 none cpu] },
      inside [.client 0#4 1#32 .leave, calling 32#32], inside [returning]], ∃ t, step s = .next t := by
  intro s hs
  have : isNext (step s) = true := by
    revert s
    decide
  exact next_of_isNext this

theorem witness_ExceptionRoundTripOnlyAddsHistory :
    let s := { booted with sched := [.exc 6#5 none cpu, .run, .run] }
    let u := { booted with cycle := [.exc 6#5 none cpu, .run, .run] }
    (s.Live ∧ s.due = [.exc 6#5 none cpu, .run, .run] ∧ s.cfg.excPolicy = .goOn ∧ (7#8).toNat ≤ 31) ∧
    (u.Live ∧ u.sched = [] ∧ u.cycle = [.exc 6#5 none cpu, .run, .run] ∧ u.cfg.excPolicy = .goOn) ∧
    (∃ a, s.gateFetch ((6#5).setWidth 8) = .ok (a, 7#8)) ∧ ∃ a, u.gateFetch ((6#5).setWidth 8) = .ok (a, 7#8) :=
  ⟨by unfold State.Live; decide, by unfold State.Live; decide, ⟨0x00101070#32, rfl⟩, 0x00101070#32, rfl⟩

theorem witness_RequestRoundTripLeavesNothingInService :
    (∀ l ∈ [7#4, 8#4],
      let s := { edges.raiseLine l with sched := [.req l cpu, .run, .run] }
      s.Live ∧ s.due = [.req l cpu, .run, .run] ∧ s.intFlag = true ∧ s.offersLine l = true ∧
        s.lookup l = 0#32) ∧
    edges.gateFetch (edges.lineVector 7#4) = .ok (0x00101270#32, BitVec.ofNat 8 (32 + (7#4).toNat)) ∧
    edges.gateFetch (edges.lineVector 8#4) = .ok (0x00101280#32, BitVec.ofNat 8 (32 + (8#4).toNat)) :=
  ⟨by unfold State.Live; decide, rfl, rfl⟩

theorem witness_TimerInitProgramsThePit :
    let s := { unbooted with prog := [.timerInit 1#32] }
    (s.Live ∧ s.due = [] ∧ s.frames = [] ∧ s.hostPending = [] ∧
      s.prog[s.hostIndex]? = some (.timerInit 1#32) ∧ 1#32 ≠ 0#32 ∧ s.running = false) ∧
    { s with cycle := [.run, .run, .run, .run] }.due = .run :: .run :: .run :: .run :: [] := by
  unfold State.Live; decide

theorem witness_ClientInitsFaultOrRegister :
    ∀ x ∈ [(booted, HostItem.timerInit 0#32), (unbooted, .timerInit 0#32), (booted, .timerInit 1#32),
      (booted, .kbdInit), (unbooted, .kbdInit)],
      let s := { x.1 with prog := [x.2] }
      s.Live ∧ s.SoftwareNext ∧ s.frames = [] ∧ s.hostPending = [] ∧ s.prog[s.hostIndex]? = some x.2 := by
  unfold State.Live State.SoftwareNext; decide

theorem witness_TimerCallbackCountsOnce :
    let s := inside [.client 0#4 1#32 .timerStart, calling 32#32]
    s.Live ∧ s.SoftwareNext ∧
      s.frames = [.client 0#4 1#32 .timerStart, calling 32#32] := by
  unfold State.Live State.SoftwareNext; decide

theorem witness_OnlyTheTimerCallbackCounts :
    ∃ t, step (inside [.client 0#4 1#32 .timerStart]) = .next t := next_of_isNext (by decide)

theorem witness_KeyboardCallbackReadsTheScancode :
    ∀ bs ∈ [[0x58#8], [0x59#8], []],
      let s := { inside [.client 1#4 2#32 .kbdStart, calling 33#32] with portIn := bs }
      s.Live ∧ s.SoftwareNext ∧ s.frames = [.client 1#4 2#32 .kbdStart, calling 33#32] ∧ s.portIn = bs := by
  unfold State.Live State.SoftwareNext; decide

theorem witness_ClientReturnClosesTheInvocation :
    ∀ g ∈ [ClientStage.leave, .free [], .free [0x02F8#16]],
      let s := inside [.client 0#4 1#32 g, calling 32#32]
      s.Live ∧ s.SoftwareNext ∧ s.frames = [.client 0#4 1#32 g, calling 32#32] := by
  unfold State.Live State.SoftwareNext; decide

theorem witness_ClientStepsTakeTheirEffect :
    (∀ a ∈ [ClientAct.print ['x'], .own, .portRead 0x02F8#16, .portWrite 0x02F8#16 1#8, .portRead 0x21#16],
      (acting a).Live ∧ (acting a).frames = [freeClient, calling 36#32] ∧
        (acting a).due = [.act a]) ∧
    (acting .own).portIn = [] ∧ { acting .own with portIn := [7#8] }.portIn = [7#8] ∧
    0x02F8#16 ∈ [0x02F8#16, 0x20#16, 0xA0#16] ∧ isPicPort 0x02F8#16 = false ∧
    0x21#16 ∉ [0x02F8#16, 0x20#16, 0xA0#16] ∧
    { acting .own with cycle := [.act .own] }.due = [.act .own] := by
  unfold State.Live; decide

/-- A free client with a port of its own, over the reset machine. -/
def plainClient : State := { s0 with frames := [.client 4#4 3#32 (.free [0x02F8#16])] }

theorem plainClient_offPic (more : List Choice) : { plainClient with sched := more }.OffPic := by
  have hc : clientsOffPic cfg = true := by decide
  have hp : isPicPort 0x02F8#16 = false := by decide
  refine ⟨hc, ?_, ?_⟩
  · simp [plainClient, s0, State.resetWith]
  · simp [plainClient, Frame.ports, hp]

theorem witness_ClientStepsLeaveTheBlockAlone :
    let u := { plainClient with sched := [.act (.portWrite 0x02F8#16 0x20#8)] }
    (plainClient.SoftwareNext ∧ plainClient.OffPic ∧ u.OffPic) ∧
      (∃ t, step plainClient = .next t) ∧ ∃ t, step u = .next t :=
  ⟨⟨rfl, plainClient_offPic [], plainClient_offPic _⟩, next_of_isNext (by decide), next_of_isNext (by decide)⟩

theorem witness_InvariantsHoldAtReset :
    ResetDraw.zero.mem.wf = true ∧ { ResetDraw.zero with mem := [(0, 1#8), (7, 2#8)] }.mem.wf = true ∧
    clientsOffPic cfg = true ∧ clientsOffPic third.cfg = true := by decide

theorem witness_StepKeepsMemoryCanonical :
    let s := { unbooted with loaded := false, prog := [.word 0x0103000000101050#64] }
    s.MemInv ∧ ∃ t, step s = .next t :=
  ⟨by unfold State.MemInv; decide, next_of_isNext (by decide)⟩

theorem witness_StepKeepsIfMaskedInDeliveries :
    let s := { inside [.client 4#4 3#32 (.free []), calling 36#32] with sched := [.exc 3#5 none cpu] }
    let u := inside [.client 4#4 3#32 (.free []), calling 36#32]
    (s.MaskInv ∧ s.StackInv ∧ u.MaskInv ∧ u.StackInv) ∧ (∃ t, step s = .next t) ∧ ∃ t, step u = .next t :=
  ⟨by unfold State.MaskInv State.LevelInv State.StackInv; decide, next_of_isNext (by decide),
    next_of_isNext (by decide)⟩

theorem witness_StepKeepsThePhaseRules :
    let s := inside [returning]
    (s.PhaseInv ∧ s.EnabledInv) ∧ ∃ t, step s = .next t :=
  ⟨by unfold State.PhaseInv State.EnabledInv State.LevelInv; decide, next_of_isNext (by decide)⟩

theorem witness_StepKeepsRegisterForms :
    let s := { booted with sched := [.exc 3#5 none cpu] }
    (s.IdtrInv ∧ s.PicBaseInv) ∧ s.SnapInv ∧ ∃ t, step s = .next t :=
  ⟨by unfold State.IdtrInv State.PicBaseInv; decide, by unfold State.SnapInv; decide,
    next_of_isNext (by decide)⟩

theorem witness_StepKeepsRemappedPicsProgrammed :
    let s := { edges.raiseLine 8#4 with sched := [.req 8#4 cpu] }
    (s.RemapInv ∧ s.remapped = true) ∧ ∃ t, step s = .next t :=
  ⟨⟨⟨⟨rfl, fun _ h => (nomatch h), fun _ h => (nomatch h)⟩,
      fun _ => by unfold Pic.Programmed; decide⟩, by decide⟩,
    next_of_isNext (by decide)⟩

theorem oneGate_written {v : VectorNo} (h : oneGate.gateWritten v = true) : v = 5#8 := by
  have h : (BitVec.twoPow 256 5).getLsbD v.toNat = true := h
  rw [BitVec.getLsbD_twoPow] at h
  simp only [Bool.and_eq_true, decide_eq_true_eq] at h
  exact BitVec.eq_of_toNat_eq h.2.symm

theorem witness_StepKeepsWrittenSlotsGates :
    oneGateRaise.GateInv ∧ oneGateRaise.gateWritten 5#8 = true ∧ ∃ t, step oneGateRaise = .next t := by
  refine ⟨fun v hv => ?_, by decide, next_of_isNext (by decide)⟩
  have e := oneGate_written hv
  subst e
  exact ⟨0x00101050#32, by decide⟩

theorem witness_GateNotPresentCannotArise :
    oneGate.GateInv ∧ oneGate.IdtrInv ∧ oneGate.cfg.gateFlags.getLsbD 7 = true := by
  refine ⟨fun v hv => ?_, by unfold State.IdtrInv; decide, by decide⟩
  have e := oneGate_written hv
  subst e
  exact ⟨0x00101050#32, by decide⟩

theorem witness_StepOnlyGrowsHistoryAndPhases :
    (booted.loaded = true ∧ booted.remapped = true ∧ booted.running = true) ∧
    ∃ t, step { booted with sched := [.exc 3#5 none cpu] } = .next t :=
  ⟨by decide, next_of_isNext (by decide)⟩

end Sys2Proof.Tests
end

section
/-! The illegal command words: which words each port refuses (spec/30_encoding.md R63, R66), and what refusing one does. -/

namespace Sys2Proof

/-- The five ops the host command port accepts, as a range (R54, R55). -/
theorem opInHostRange_iff (op : Byte) :
    (1 ≤ op.toNat ∧ op.toNat ≤ 5) ↔ op = 0x01#8 ∨ op = 0x02#8 ∨ op = 0x03#8 ∨ op = 0x04#8 ∨ op = 0x05#8 := by
  simp only [← BitVec.toNat_inj, BitVec.toNat_ofNat]
  omega

/-- An op outside 0x01 to 0x05 is none of the rows the host command port tries (R63, R66). -/
theorem decodeHost_eq_none_of_foreign_op {op : Byte} (h : ¬(1 ≤ op.toNat ∧ op.toNat ≤ 5)) (a8 : Byte) (rsv : Half)
    (a32 : Word) : decodeHost op a8 rsv a32 = none := by
  rw [opInHostRange_iff, not_or, not_or, not_or, not_or] at h
  obtain ⟨h1, h2, h3, h4, h5⟩ := h
  simp [decodeHost, h1, h2, h3, h4, h5]

/-- The words the host command port refuses, by their fields (R66): one case for each of its five ops and one for every
other op. SETGATE and REGISTER use both operand fields, so there only `rsv` counts. -/
theorem decodeHost_eq_none_iff (op a8 : Byte) (rsv : Half) (a32 : Word) :
    decodeHost op a8 rsv a32 = none ↔
      ¬(1 ≤ op.toNat ∧ op.toNat ≤ 5) ∨ rsv ≠ 0#16 ∨
        ((op = 0x02#8 ∨ op = 0x03#8 ∨ op = 0x05#8) ∧ (a8 ≠ 0#8 ∨ a32 ≠ 0#32)) := by
  by_cases hop : 1 ≤ op.toNat ∧ op.toNat ≤ 5
  · obtain rfl | rfl | rfl | rfl | rfl := (opInHostRange_iff op).mp hop
    · simp [decodeHost]
    · simp [decodeHost, -not_and, not_and_or, or_left_comm]
    · simp [decodeHost, -not_and, not_and_or, or_left_comm]
    · simp [decodeHost]
    · simp [decodeHost, -not_and, not_and_or, or_left_comm]
  · simp only [decodeHost_eq_none_of_foreign_op hop, hop, not_false_eq_true, true_or]

/-- The words the trampoline dispatch port refuses, by their fields (R66). -/
theorem decodeTramp_eq_none_iff (op a8 : Byte) (rsv : Half) (a32 : Word) :
    decodeTramp op a8 rsv a32 = none ↔ op ≠ 0x10#8 ∨ rsv ≠ 0#16 ∨ a8 ≠ 0#8 := by
  simp [decodeTramp, -not_and, not_and_or, or_comm]

namespace Machine

/-- The first fault: the register takes the code, the history its event, and nothing else changes (R29, R123). -/
theorem State.raise_eq_of_no_fault {s : State} (h : s.fault = none) (c : FaultCode) :
    s.raise c = { s with fault := some c, hist := s.hist ++ [.fault c] } := by
  rw [State.raise, h, Option.none_or]

/-- A word that decodes to nothing raises IllegalCommand (R66). -/
theorem runWord_of_decode_eq_none {port : CmdPort} {cw : Word64} (h : decode port cw = none) (s : State) :
    runWord port cw s = .next (s.raise .illegalCommand) := by
  rw [runWord, h]

/-- Settles O5, port by port from the fields of the word, and for the effect from what raising a first fault does. -/
theorem illegalWordsRaiseIllegalCommand : Obligations.IllegalWordsRaiseIllegalCommand := by
  unfold Obligations.IllegalWordsRaiseIllegalCommand
  refine ⟨fun cw => ?_, fun cw => ?_, fun port cw s hd hf => ?_⟩
  · exact decodeHost_eq_none_iff (cwOp cw) (cwA8 cw) (cwRsv cw) (cwA32 cw)
  · exact decodeTramp_eq_none_iff (cwOp cw) (cwA8 cw) (cwRsv cw) (cwA32 cw)
  · rw [runWord_of_decode_eq_none hd, State.raise_eq_of_no_fault hf]

end Machine

end Sys2Proof
end

section
/-! The Descriptor Table Builder: the bytes of a gate in memory, and what SETGATE and LOADIDT do in each of their cases
(spec/40_descriptor_table.md R73, R76). -/

namespace Sys2Proof

/-- SETGATE's word decodes for every vector and address (R56, R63). -/
theorem decode_setgate_word (v : Byte) (a : Word) : decode .host (mkWord 0x01#8 v 0#16 a) = some (.setgate v a) := by
  simp [decode, decodeHost]

/-- LOADIDT's word decodes (R57, R63). -/
theorem decode_loadidt_word : decode .host (mkWord 0x02#8 0#8 0#16 0#32) = some .loadidt := by
  simp [decode, decodeHost]

/-- A field of a field is a field of the whole number. -/
theorem extractLsb'_of_extractLsb' {w start len start' len' : Nat} (x : BitVec w) (h : start' + len' ≤ len) :
    (x.extractLsb' start len).extractLsb' start' len' = x.extractLsb' (start + start') len' := by
  ext j hj
  simp [show start' + j < len by omega, Nat.add_assoc]

namespace Machine

/-- The bytes of a little-endian number are its fields of 8 bits, from the low end on (R41). -/
theorem bytesLE_eq_map_field (n : Nat) (v : Word64) :
    bytesLE n v = (List.range n).map fun i => v.extractLsb' (8 * i) 8 :=
  List.map_congr_left fun _ _ => BitVec.setWidth_ushiftRight_eq_extractLsb

/-- A part of a gate is that part of its five fields put together, the low half of the address lowest (R64). -/
theorem extractLsb'_gateOf (p : Params) (a : Word) (start len : Nat) :
    (gateOf p a).extractLsb' start len =
      (a.extractLsb' 16 16 ++ p.gateFlags ++ 0x00#8 ++ p.codeSelector ++ a.extractLsb' 0 16).extractLsb' start len :=
  rfl

/-- The eight bytes of a gate in memory order (R41, R64): none straddles two fields of the descriptor, so each is a part
of one of them. -/
theorem bytesLE_gateOf (p : Params) (a : Word) :
    bytesLE 8 (gateOf p a) =
      [a.extractLsb' 0 8, a.extractLsb' 8 8, p.codeSelector.extractLsb' 0 8, p.codeSelector.extractLsb' 8 8, 0x00#8,
        p.gateFlags, a.extractLsb' 16 8, a.extractLsb' 24 8] := by
  rw [bytesLE_eq_map_field, show List.range 8 = [0, 1, 2, 3, 4, 5, 6, 7] from rfl]
  simp (disch := omega) only [List.map_cons, List.map_nil, extractLsb'_gateOf, BitVec.extractLsb'_append_eq_of_le,
    BitVec.extractLsb'_append_eq_of_add_le, extractLsb'_of_extractLsb']
  simp

/-- A store leaves the bytes of its number in memory, lowest first (R41). -/
theorem Memory.map_read_store (m : Memory) (a : Word) (v : Word64) {n : Nat} (hn : n ≤ 2 ^ 32) :
    (List.range n).map (fun i => (m.store a n v).read (a + BitVec.ofNat 32 i).toNat) = bytesLE n v :=
  List.map_congr_left fun _ hi => Memory.read_store_same (List.mem_range.mp hi) hn

/-- SETGATE of a slot whose gate may be written (R73). -/
theorem exec_setgate_of_allowed {s : State} {v : Byte} (hl : s.loaded = false)
    (hr : 32 ≤ v.toNat ∧ v.toNat ≤ 47 → s.remapped = true) (a : Word) :
    exec (.setgate v a) s = .next (s.writeGate v a) := by
  have : (isRequestVector v && !s.remapped) = false := by
    simpa [isRequestVector] using hr
  simp [exec, execSetgate, hl, this]

/-- SETGATE after LOADIDT (R73). -/
theorem exec_setgate_of_loaded {s : State} (hl : s.loaded = true) (v : Byte) (a : Word) :
    exec (.setgate v a) s = .next (s.raise .lateGateWrite) := by
  simp [exec, execSetgate, hl]

/-- SETGATE of a request vector before PICREMAP (R73). -/
theorem exec_setgate_of_not_remapped {s : State} {v : Byte} (hl : s.loaded = false) (hlo : 32 ≤ v.toNat)
    (hhi : v.toNat ≤ 47) (hr : s.remapped = false) (a : Word) :
    exec (.setgate v a) s = .next (s.raise .gateBeforeRemap) := by
  simp [exec, execSetgate, isRequestVector, hl, hlo, hhi, hr]

/-- The eight bytes of a slot once its gate is written (R64, R73). -/
theorem State.read_writeGate_slot (s : State) (v : VectorNo) (a : Word) :
    (List.range 8).map (fun i => (s.writeGate v a).mem.read (slotAddr s.cfg.idtBase v + BitVec.ofNat 32 i).toNat) =
      [a.extractLsb' 0 8, a.extractLsb' 8 8, s.cfg.codeSelector.extractLsb' 0 8,
        s.cfg.codeSelector.extractLsb' 8 8, 0x00#8, s.cfg.gateFlags, a.extractLsb' 16 8, a.extractLsb' 24 8] :=
  (Memory.map_read_store s.mem _ _ (by decide)).trans (bytesLE_gateOf s.cfg a)

/-- Settles O12: a gate write is the state's own `writeGate`, whose memory is one store of the gate's bytes; each of the
two checks before it raises its fault. -/
theorem setgateWritesTheGateOrFaults : Obligations.SetgateWritesTheGateOrFaults := by
  unfold Obligations.SetgateWritesTheGateOrFaults
  intro s v a
  refine ⟨decode_setgate_word v a, fun hl hr => ?completes, fun hf hl => ?late, fun hf hl hlo hhi hr => ?early⟩
  case completes =>
    exact ⟨s.writeGate v a, exec_setgate_of_allowed hl hr a, rfl, fun u => s.gateWritten_writeGate v u a,
      fun x hx => Memory.read_store_other hx, s.read_writeGate_slot v a⟩
  case late => rw [exec_setgate_of_loaded hl, State.raise_eq_of_no_fault hf]
  case early => rw [exec_setgate_of_not_remapped hl hlo hhi hr, State.raise_eq_of_no_fault hf]

/-- The first LOADIDT (R76). Its limit is the one that covers 256 gates of 8 bytes (R77). -/
theorem exec_loadidt_of_not_loaded {s : State} (hl : s.loaded = false) :
    exec .loadidt s =
      .next
        { s with
          idtr := { base := s.cfg.idtBase, limit := 0x07FF#16 }
          loaded := true
          hist := s.hist ++ [.lidt s.cfg.idtBase 0x07FF#16] } := by
  have hlimit : Config.idtLimit = 0x07FF#16 := rfl
  simp [exec, execLoadidt, hl, hlimit]

/-- A second LOADIDT (R76). -/
theorem exec_loadidt_of_loaded {s : State} (hl : s.loaded = true) : exec .loadidt s = .next (s.raise .doubleLoad) := by
  simp [exec, execLoadidt, hl]

/-- Settles O14, by whether the register is loaded already. -/
theorem loadidtLoadsIdtrOnce : Obligations.LoadidtLoadsIdtrOnce := by
  unfold Obligations.LoadidtLoadsIdtrOnce
  refine ⟨decode_loadidt_word, fun s hl => exec_loadidt_of_not_loaded hl, fun s hf hl => ?_⟩
  rw [exec_loadidt_of_loaded hl, State.raise_eq_of_no_fault hf]

end Machine

end Sys2Proof
end

section
/-! The dispatcher: the path the demultiplexer chooses, and what each path of DISPATCH does up to the registry lookup
(spec/41_dispatcher.md R82 to R91). -/

namespace Sys2Proof

/-- Numbers past the last request line take the unrouted path (R62). -/
theorem decodeIntNo_of_unrouted {n : Word} (h : 48 ≤ n.toNat) : decodeIntNo n = .dispatchUnrouted n := by
  rw [decodeIntNo_eq, if_neg (by omega), if_neg (by omega), if_neg (by omega)]

namespace Machine

/-- Settles O4: a trampoline's word decodes to what the demultiplexer gives, which is read off its ranges. -/
theorem demultiplexerChoosesByIntNo : Obligations.DemultiplexerChoosesByIntNo := by
  unfold Obligations.DemultiplexerChoosesByIntNo
  intro n
  rw [decode_dispatchWord, decodeIntNo_eq]

/-- DISPATCH.UNROUTED raises its fault (R91). -/
theorem exec_dispatchUnrouted (n : Word) (s : State) :
    exec (.dispatchUnrouted n) s = .next (s.raise .unroutedVector) := rfl

/-- Settles O34, from the demultiplexer's last range and from what raising a first fault does. -/
theorem unroutedNumberFaults : Obligations.UnroutedNumberFaults := by
  unfold Obligations.UnroutedNumberFaults
  intro s n hn hf
  constructor
  · rw [decode_dispatchWord, decodeIntNo_of_unrouted hn]
  · rw [exec_dispatchUnrouted, State.raise_eq_of_no_fault hf]

/-- The text of a named exception is its entry of EXC_MSG (R83). -/
theorem excMsgAt_of_named (p : Params) {n : Nat} (h : n < 21) : excMsgAt p n = p.excMsg[n] := dif_pos h

/-- Past the named exceptions the text is "Reserved" (R83). -/
theorem excMsgAt_of_reserved (p : Params) {n : Nat} (h : 21 ≤ n) : excMsgAt p n = "Reserved".toList :=
  dif_neg (by omega)

/-- DISPATCH.EXC of a machine that runs: the report is appended, and the machine stops under Halt (R84, R86). -/
theorem exec_dispatchExc_of_not_halted {s : State} (h : s.halted = false) (n : Word) :
    exec (.dispatchExc n) s =
      .next
        { s with
          halted := decide (s.cfg.excPolicy = .halt)
          hist := s.hist ++ [.sp (reportText s.cfg n)] } := by
  have hpolicy : (s.halted || s.cfg.excPolicy == .halt) = decide (s.cfg.excPolicy = .halt) := by
    rw [h, Bool.false_or, beq_eq_decide]
  rw [← hpolicy]
  rfl

/-- Settles O28: the message is the one the report text takes, named or "Reserved". -/
theorem exceptionIsReported : Obligations.ExceptionIsReported := by
  unfold Obligations.ExceptionIsReported
  intro s n _ hh
  exact ⟨excMsgAt s.cfg n.toNat, excMsgAt_of_named s.cfg, excMsgAt_of_reserved s.cfg,
    exec_dispatchExc_of_not_halted hh n⟩

/-- The request index of a request vector counts from 32 (R87). -/
theorem toNat_requestIndex {n : Word} (hlo : 32 ≤ n.toNat) (hhi : n.toNat ≤ 47) :
    (requestIndex n).toNat = n.toNat - 32 := by
  have hle : 32#32 ≤ n := hlo
  rw [requestIndex, BitVec.toNat_setWidth, BitVec.toNat_sub_of_le hle, BitVec.toNat_ofNat]
  omega

/-- The registry lookup of a request vector reads the slot its index names (R87, R103). -/
theorem State.lookup_requestIndex {s : State} {n h : Word} (hlo : 32 ≤ n.toNat) (hhi : n.toNat ≤ 47)
    (hr : s.reg[n.toNat - 32]? = some h) : s.lookup (requestIndex n) = h := by
  rw [← toNat_requestIndex hlo hhi] at hr
  exact (Vector.getElem?_eq_some_iff.mp hr).2

/-- The EOI sequence of a primary line: the primary chip alone (R97). -/
theorem State.eoi_of_primary (s : State) {k : Line} (h : k.toNat ≤ 7) :
    s.eoi k = { s with hist := s.hist ++ [.pw 0x20#16 0x20#8], picP := s.picP.eoi } := by
  have hk : ¬8 ≤ k.toNat := by omega
  simp only [State.eoi_eq, hk, if_false, List.nil_append]

/-- The EOI sequence of a secondary line: the secondary chip, then the primary (R97). -/
theorem State.eoi_of_secondary (s : State) {k : Line} (h : 8 ≤ k.toNat) :
    s.eoi k =
      { s with
        hist := s.hist ++ [.pw 0xA0#16 0x20#8, .pw 0x20#16 0x20#8]
        picP := s.picP.eoi, picS := s.picS.eoi } := by
  simp only [State.eoi_eq, h, if_true, List.cons_append, List.nil_append]

/-- DISPATCH.REQ on a primary line is the request path (R88). -/
theorem exec_dispatchReqPrimary (n : Word) (s : State) : exec (.dispatchReqPrimary n) s = .next (s.requestPath n) := rfl

/-- DISPATCH.REQ on a secondary line is the request path (R88). -/
theorem exec_dispatchReqSecondary (n : Word) (s : State) :
    exec (.dispatchReqSecondary n) s = .next (s.requestPath n) := rfl

/-- With an empty slot the request path ends at its EOI sequence (R90). -/
theorem State.requestPath_of_empty {s : State} {n : Word} (h : s.lookup (requestIndex n) = 0#32) :
    s.requestPath n = s.eoi (requestIndex n) := by
  obtain ⟨_, e⟩ | ⟨hne, _⟩ := s.requestPath_cases n
  · exact e
  · exact absurd h hne

/-- Settles O30: an empty slot leaves the EOI sequence, which is the chip's or the two chips' by the line's half. -/
theorem emptySlotOnlyAcknowledges : Obligations.EmptySlotOnlyAcknowledges := by
  unfold Obligations.EmptySlotOnlyAcknowledges
  refine fun s n => ⟨fun hlo hhi hr => ?primary, fun hlo hhi hr => ?secondary⟩
  case primary =>
    have hk := toNat_requestIndex hlo (by omega)
    rw [exec_dispatchReqPrimary, State.requestPath_of_empty (State.lookup_requestIndex hlo (by omega) hr),
      State.eoi_of_primary s (by omega)]
  case secondary =>
    have hk := toNat_requestIndex (by omega) hhi
    rw [exec_dispatchReqSecondary, State.requestPath_of_empty (State.lookup_requestIndex (by omega) hhi hr),
      State.eoi_of_secondary s (by omega)]

end Machine

end Sys2Proof
end

section
/-! The Handler Registry: what REGISTER does in each of its cases, and that a later registration replaces an earlier one
(spec/43_handler_registry.md R101, R102). -/

namespace Sys2Proof

/-- REGISTER's word decodes for every index and handler id (R59, R63). -/
theorem decode_register_word (i : Byte) (h : Word) : decode .host (mkWord 0x04#8 i 0#16 h) = some (.register i h) := by
  simp [decode, decodeHost]

namespace Machine

/-- A registration of a legal index before ENABLE completes (R101). -/
theorem State.registerHandler_of_allowed {s : State} {i : Byte} (lt : i.toNat < 16) (hr : s.running = false)
    (h : Word) : s.registerHandler i h = s.setReg ⟨i.toNat, lt⟩ h := by
  simp [State.registerHandler, lt, hr]

/-- A registration of an index that is no request line's (R101). -/
theorem State.registerHandler_of_bad_index {i : Byte} (hi : 16 ≤ i.toNat) (s : State) (h : Word) :
    s.registerHandler i h = s.raise .badIndex :=
  dif_neg (Nat.not_lt.mpr hi)

/-- A registration of a legal index in the running phase (R101). -/
theorem State.registerHandler_of_running {s : State} {i : Byte} (lt : i.toNat < 16) (hr : s.running = true) (h : Word) :
    s.registerHandler i h = s.raise .lateRegister := by
  simp [State.registerHandler, lt, hr]

/-- REGISTER is the registry's own operation (R101). -/
theorem exec_register (i : Byte) (h : Word) (s : State) : exec (.register i h) s = .next (s.registerHandler i h) := rfl

/-- REGISTER of a legal index before ENABLE completes writes the slot, and nothing else (R101). -/
theorem exec_register_of_allowed {s : State} {i : Byte} (lt : i.toNat < 16) (hr : s.running = false) (h : Word) :
    exec (.register i h) s = .next { s with reg := s.reg.set i.toNat h lt } := by
  rw [exec_register, State.registerHandler_of_allowed lt hr, State.setReg]

/-- Settles O23, by the order of REGISTER's checks: the index first, then the phase. -/
theorem registerStoresTheHandlerOrFaults : Obligations.RegisterStoresTheHandlerOrFaults := by
  unfold Obligations.RegisterStoresTheHandlerOrFaults
  intro s i h
  refine ⟨decode_register_word i h, fun lt hr => exec_register_of_allowed lt hr h, fun hf hi => ?badIndex,
    fun hf lt hr => ?late⟩
  case badIndex => rw [exec_register, State.registerHandler_of_bad_index hi, State.raise_eq_of_no_fault hf]
  case late => rw [exec_register, State.registerHandler_of_running lt hr, State.raise_eq_of_no_fault hf]

/-- Of two writes to one registry slot the second is what stands (R102). -/
theorem State.setReg_setReg (s : State) (k : Fin 16) (a b : Word) : (s.setReg k a).setReg k b = s.setReg k b := by
  simp only [State.setReg, Vector.set_set]

/-- Settles O24: the first registration leaves the phase as it is, so the second completes too, and writes its slot over
the first's. -/
theorem lastRegistrationWins : Obligations.LastRegistrationWins := by
  unfold Obligations.LastRegistrationWins
  intro s i a b lt hr
  let first := s.setReg ⟨i.toNat, lt⟩ a
  have second : exec (.register i b) first = .next (s.setReg ⟨i.toNat, lt⟩ b) := by
    rw [exec_register, State.registerHandler_of_allowed lt (s := first) hr, State.setReg_setReg]
  exact ⟨first, _, exec_register_of_allowed lt hr a, second, exec_register_of_allowed lt hr b, rfl⟩

end Machine

end Sys2Proof
end

section
/-! The interrupt enable: what ENABLE does in each of its cases (spec/44_interrupt_enable.md R107, R110). -/

namespace Sys2Proof

/-- ENABLE's word decodes (R60, R63). -/
theorem decode_enable_word : decode .host (mkWord 0x05#8 0#8 0#16 0#32) = some .enable := by
  simp [decode, decodeHost]

namespace Machine

/-- ENABLE outside a delivery, once the table is loaded and the chips are remapped, completes (R107). -/
theorem exec_enable_of_ready {s : State} (hd : s.depth = 0) (hl : s.loaded = true) (hr : s.remapped = true) :
    exec .enable s = .next { s with running := true, intFlag := true, hist := s.hist ++ [.sti] } := by
  simp [exec, execEnable, State.setIf, State.emit, hd, hl, hr]

/-- ENABLE inside a delivery (R107, R110). -/
theorem exec_enable_of_in_delivery {s : State} (hd : 0 < s.depth) :
    exec .enable s = .next (s.raise .reenableInDispatch) := by
  simp [exec, execEnable, hd]

/-- ENABLE before LOADIDT (R107). -/
theorem exec_enable_of_not_loaded {s : State} (hd : s.depth = 0) (hl : s.loaded = false) :
    exec .enable s = .next (s.raise .enableBeforeLoad) := by
  simp [exec, execEnable, hd, hl]

/-- ENABLE after LOADIDT and before PICREMAP (R107). -/
theorem exec_enable_of_not_remapped {s : State} (hd : s.depth = 0) (hl : s.loaded = true) (hr : s.remapped = false) :
    exec .enable s = .next (s.raise .enableBeforeRemap) := by
  simp [exec, execEnable, hd, hl, hr]

/-- Settles O26, by the order of ENABLE's checks: the delivery first, then the table, then the chips. -/
theorem enableStartsTheRunningPhaseOrFaults : Obligations.EnableStartsTheRunningPhaseOrFaults := by
  unfold Obligations.EnableStartsTheRunningPhaseOrFaults
  refine ⟨decode_enable_word, fun s => ⟨fun hd hl hr => exec_enable_of_ready hd hl hr, fun hf hd => ?reenable,
    fun hf hd hl => ?beforeLoad, fun hf hd hl hr => ?beforeRemap⟩⟩
  case reenable => rw [exec_enable_of_in_delivery hd, State.raise_eq_of_no_fault hf]
  case beforeLoad => rw [exec_enable_of_not_loaded hd hl, State.raise_eq_of_no_fault hf]
  case beforeRemap => rw [exec_enable_of_not_remapped hd hl hr, State.raise_eq_of_no_fault hf]

end Machine

end Sys2Proof
end

section
/-! The boundary clients: the step a client takes as the newest software agent, and the timer callback's
(spec/45_boundary_clients.md R113, R115). -/

namespace Sys2Proof.Machine

/-- With a client's frame newest, the software's step is that client's, from its stage (R12, R104). -/
theorem softwareStep_of_client {s : State} {k : Line} {h : Word} {g : ClientStage} {rest : List Frame}
    (hf : s.frames = .client k h g :: rest) : softwareStep s = .next (s.clientRun k h g) := by
  rw [softwareStep, hf]

/-- Where the software moves next and a client's frame is newest, the step is the client's own. -/
theorem step_of_client {s : State} {k : Line} {h : Word} {g : ClientStage} {rest : List Frame} (live : s.Live)
    (next : s.SoftwareNext) (hf : s.frames = .client k h g :: rest) :
    step s = .next (s.popped.clientRun k h g) := by
  rw [step_of_software live next, softwareStep_of_client (s := s.popped) hf]

/-- The timer callback's one step adds one to the tick counter and leaves its return due, and changes nothing else
(R115). -/
theorem State.clientRun_timerStart {s : State} {k : Line} {h : Word} {g : ClientStage} {rest : List Frame}
    (hf : s.frames = .client k h g :: rest) :
    s.clientRun k h .timerStart = { s with tick := s.tick + 1#32, frames := .client k h .leave :: rest } := by
  rw [State.clientRun, State.setStage, State.timerTick_frames, hf, List.tail_cons, State.timerTick]

/-- Settles O45: the step is the callback's, and its one sum of words wraps at 2^32 (assumption log 6 makes the return a
later step). -/
theorem timerCallbackCountsOnce : Obligations.TimerCallbackCountsOnce := by
  unfold Obligations.TimerCallbackCountsOnce
  intro s k h rest live next hf
  have counted := State.clientRun_timerStart (s := s.popped) hf
  refine ⟨_, step_of_client live next hf, ?tick, ?frame⟩
  case tick => rw [counted]; exact BitVec.toNat_add s.tick 1#32
  case frame => rw [counted]

end Sys2Proof.Machine
end

section
/-! The exceptions: the trampoline's return from an interrupt, as the newest software agent's step
(spec/60_exceptions.md R136). -/

namespace Sys2Proof.Machine

/-- With a trampoline newest whose DISPATCH has returned, the software's step is the return from the interrupt
(R12, R136). -/
theorem softwareStep_of_trampRet {s : State} {saved : CpuRegs} {rest : List Frame}
    (hf : s.frames = .tramp saved .ret :: rest) : softwareStep s = .next s.trapReturn := by
  rw [softwareStep, hf]

/-- The return from an interrupt takes the newest saved IF and the newest frame off, goes one level up and records
IRET, and changes nothing else (R136). -/
theorem State.trapReturn_of_cons {s : State} {f : Frame} {rest : List Frame} {b : Bool} {bs : List Bool}
    (hf : s.frames = f :: rest) (hi : s.ifsave = b :: bs) :
    s.trapReturn =
      { s with intFlag := b, ifsave := bs, depth := s.depth - 1, hist := s.hist ++ [.iret], frames := rest } := by
  rw [State.trapReturn, State.leaveLevel, hf, hi, List.tail_cons, List.headD_cons, List.tail_cons]

/-- Settles O39: the software's step is the trampoline's return, whose restored IF is the newest one saved. -/
theorem trapReturnRestoresIf : Obligations.TrapReturnRestoresIf := by
  unfold Obligations.TrapReturnRestoresIf
  intro s saved rest b bs live next hf hi
  rw [step_of_software live next, softwareStep_of_trampRet (s := s.popped) hf,
    State.trapReturn_of_cons (s := s.popped) hf hi]
  rfl

end Sys2Proof.Machine
end

section
/-! The decoder and the encoder are inverse to each other on every command word and every well-formed operation
(spec/30_encoding.md R53 to R63). -/

namespace Sys2Proof

/-- PICREMAP's word decodes (R58, R63). -/
theorem decode_picremap_word : decode .host (mkWord 0x03#8 0#8 0#16 0#32) = some .picremap := by
  simp [decode, decodeHost]

/-- A DISPATCH word decodes, on the trampoline port, to what the demultiplexer gives (R61, R63). -/
theorem decode_dispatch_word (n : Word) : decode .tramp (mkWord 0x10#8 0#8 0#16 n) = some (decodeIntNo n) :=
  Machine.decode_dispatchWord n

/-- Numbers of exceptions take the exception path (R62). -/
theorem decodeIntNo_of_exception {n : Word} (h : n.toNat ≤ 31) : decodeIntNo n = .dispatchExc n := by
  rw [decodeIntNo_eq, if_pos h]

/-- Numbers of primary lines take the primary request path (R62). -/
theorem decodeIntNo_of_primary {n : Word} (hlo : 32 ≤ n.toNat) (hhi : n.toNat ≤ 39) :
    decodeIntNo n = .dispatchReqPrimary n := by
  rw [decodeIntNo_eq, if_neg (by omega), if_pos hhi]

/-- Numbers of secondary lines take the secondary request path (R62). -/
theorem decodeIntNo_of_secondary {n : Word} (hlo : 40 ≤ n.toNat) (hhi : n.toNat ≤ 47) :
    decodeIntNo n = .dispatchReqSecondary n := by
  rw [decodeIntNo_eq, if_neg (by omega), if_neg (by omega), if_pos hhi]

/-- The word of a well-formed operation decodes on the operation's own port (R56 to R63). -/
theorem decode_encode {i : Instr} (h : i.wf = true) : decode i.port (encode i) = some i := by
  cases i with
  | setgate v a => exact decode_setgate_word v a
  | loadidt => exact decode_loadidt_word
  | picremap => exact decode_picremap_word
  | register k x => exact decode_register_word k x
  | enable => exact decode_enable_word
  | dispatchExc n =>
    have hn := of_decide_eq_true h
    exact (decode_dispatch_word n).trans (congrArg some (decodeIntNo_of_exception hn))
  | dispatchReqPrimary n =>
    have hn := of_decide_eq_true h
    exact (decode_dispatch_word n).trans (congrArg some (decodeIntNo_of_primary hn.1 hn.2))
  | dispatchReqSecondary n =>
    have hn := of_decide_eq_true h
    exact (decode_dispatch_word n).trans (congrArg some (decodeIntNo_of_secondary hn.1 hn.2))
  | dispatchUnrouted n =>
    have hn := of_decide_eq_true h
    exact (decode_dispatch_word n).trans (congrArg some (decodeIntNo_of_unrouted hn))

/-- The op of an operation's word tells the operation's port (R54, R55). -/
theorem cwOp_encode_eq_tramp_op_iff (i : Instr) : cwOp (encode i) = 0x10#8 ↔ i.port = .tramp := by
  cases i <;> simp [encode, Instr.port]

/-- The host port takes only words whose op is not the trampoline port's (R54, R63). -/
theorem cwOp_ne_of_decode_host {cw : Word64} {i : Instr} (h : decode .host cw = some i) : cwOp cw ≠ 0x10#8 := by
  intro hop
  rw [decode, hop, decodeHost_eq_none_of_foreign_op (by decide)] at h
  cases h

/-- The trampoline port takes only words with its op (R54, R63). -/
theorem cwOp_of_decode_tramp {cw : Word64} {i : Instr} (h : decode .tramp cw = some i) : cwOp cw = 0x10#8 := by
  by_contra hop
  rw [decode, (decodeTramp_eq_none_iff _ _ _ _).mpr (.inl hop)] at h
  cases h

/-- A word that decodes at all does so on the port its op names, so no operation's word decodes on the other (R54). -/
theorem port_eq_of_decode_encode {i j : Instr} {port : CmdPort} (h : decode port (encode i) = some j) :
    port = i.port := by
  cases port with
  | host =>
    have hop := mt (cwOp_encode_eq_tramp_op_iff i).mpr (cwOp_ne_of_decode_host h)
    cases hp : i.port with
    | host => rfl
    | tramp => exact absurd hp hop
  | tramp => exact ((cwOp_encode_eq_tramp_op_iff i).mp (cwOp_of_decode_tramp h)).symm

/-- Settles O2, by the operation's row; the other port refuses the word by its op alone. -/
theorem decodeOfEncode : Obligations.DecodeOfEncode := by
  unfold Obligations.DecodeOfEncode
  refine fun i h => ⟨decode_encode h, fun port hp => ?_⟩
  cases hd : decode port (encode i) with
  | none => rfl
  | some j => exact absurd (port_eq_of_decode_encode hd) hp

/-- The host port's rows, each with the operation it gives: its fields are the operation's own (R56 to R60, R63). -/
theorem encode_of_decodeHost {op a8 : Byte} {rsv : Half} {a32 : Word} {i : Instr}
    (h : decodeHost op a8 rsv a32 = some i) : encode i = mkWord op a8 rsv a32 ∧ i.port = .host ∧ i.wf = true := by
  unfold decodeHost at h
  split_ifs at h with hset hload hremap hreg hen
  · obtain ⟨rfl, rfl⟩ := hset; cases h; exact ⟨rfl, rfl, rfl⟩
  · obtain ⟨rfl, rfl, rfl, rfl⟩ := hload; cases h; exact ⟨rfl, rfl, rfl⟩
  · obtain ⟨rfl, rfl, rfl, rfl⟩ := hremap; cases h; exact ⟨rfl, rfl, rfl⟩
  · obtain ⟨rfl, rfl⟩ := hreg; cases h; exact ⟨rfl, rfl, rfl⟩
  · obtain ⟨rfl, rfl, rfl, rfl⟩ := hen; cases h; exact ⟨rfl, rfl, rfl⟩

/-- What the demultiplexer gives is a well-formed operation of the trampoline port with that number (R61, R62). -/
theorem encode_decodeIntNo (n : Word) :
    encode (decodeIntNo n) = mkWord 0x10#8 0#8 0#16 n ∧ (decodeIntNo n).port = .tramp ∧
      (decodeIntNo n).wf = true := by
  rw [decodeIntNo_eq]
  split_ifs with h31 h39 h47 <;> refine ⟨rfl, rfl, decide_eq_true ?_⟩ <;> omega

/-- The trampoline port's row with the operation it gives (R61, R63). -/
theorem encode_of_decodeTramp {op a8 : Byte} {rsv : Half} {a32 : Word} {i : Instr}
    (h : decodeTramp op a8 rsv a32 = some i) : encode i = mkWord op a8 rsv a32 ∧ i.port = .tramp ∧ i.wf = true := by
  unfold decodeTramp at h
  split_ifs at h with hrow
  obtain ⟨rfl, rfl, rfl⟩ := hrow
  cases h
  exact encode_decodeIntNo a32

/-- Settles O3: a word is the word of its own four fields, and those are fixed by the row that decodes it. -/
theorem encodeOfDecode : Obligations.EncodeOfDecode := by
  unfold Obligations.EncodeOfDecode
  intro port cw i h
  rw [← mkWord_fields cw]
  cases port with
  | host => exact encode_of_decodeHost h
  | tramp => exact encode_of_decodeTramp h

/-- Settles O1: each written-out word is computed through the decoder. -/
theorem writtenWordsDecode : Obligations.WrittenWordsDecode := by
  unfold Obligations.WrittenWordsDecode
  decide

end Sys2Proof
end

section
/-! The invariants that one elementary update or two can touch: the canonical form of memory, the gates of the written
slots, IDTR, the registry, the phase bits and the history. Every other update leaves what the invariant is about as it
is, and the case analysis over the agents is `Keeps.step` (spec/10_state.md R18 to R35). -/

namespace Sys2Proof.Machine

/-- A raise touches the two chips alone (R148). -/
theorem State.raiseLine_only_pics (s : State) (l : Line) :
    s.raiseLine l = { s with picP := (s.raiseLine l).picP, picS := (s.raiseLine l).picS } := by
  unfold State.raiseLine
  split <;> rfl

/-- An acknowledge touches the two chips alone (R149). -/
theorem State.ackLine_only_pics (s : State) (l : Line) :
    s.ackLine l = { s with picP := (s.ackLine l).picP, picS := (s.ackLine l).picS } := by
  unfold State.ackLine
  split <;> rfl

theorem keeps_memInv : Keeps State.MemInv := by
  constructor
  case writeGate => exact fun _ _ _ _ _ h => Memory.wf_store h
  case raiseLine => exact fun s l _ h => s.raiseLine_only_pics l ▸ h
  case ackLine => exact fun s l _ _ h => s.ackLine_only_pics l ▸ h
  all_goals intros; assumption

/-- Settles O53: only SETGATE stores, and a store keeps the canonical form. -/
theorem stepKeepsMemoryCanonical : Obligations.StepKeepsMemoryCanonical := by
  unfold Obligations.StepKeepsMemoryCanonical
  exact fun _ _ h st => keeps_memInv.step (fun _ _ h => h) h st

/-- The no-wrap rule on IDT_BASE as arithmetic (R40). -/
theorem idtFits_iff (p : Params) : idtFits p = true ↔ p.idtBase.toNat + 2047 ≤ 0xFFFFFFFF := by
  simp only [idtFits, decide_eq_true_eq]
  omega

/-- The bytes of two slots of a table that does not wrap do not meet (R18, R40). -/
theorem slotAddr_ne {b : Word} {u v : VectorNo} {i j : Nat} (h : b.toNat + 2047 ≤ 0xFFFFFFFF) (hi : i < 8)
    (hj : j < 8) (huv : u ≠ v) :
    (slotAddr b u + BitVec.ofNat 32 i).toNat ≠ (slotAddr b v + BitVec.ofNat 32 j).toNat := by
  have huv' : u.toNat ≠ v.toNat := fun e => huv (BitVec.eq_of_toNat_eq e)
  rw [slotAddr_toNat u h hi, slotAddr_toNat v h hj]
  omega

/-- A gate write leaves the other slots of a table that does not wrap as they are (R18, R40, R73). -/
theorem State.load_writeGate_other {s : State} {u v : VectorNo} (hc : idtFits s.cfg = true) (huv : u ≠ v) (a : Word) :
    (s.writeGate v a).mem.load (slotAddr s.cfg.idtBase u) 8 = s.mem.load (slotAddr s.cfg.idtBase u) 8 :=
  Memory.load_congr fun _ hi => Memory.read_store_other fun _ hj => slotAddr_ne ((idtFits_iff _).mp hc) hi hj huv

theorem keeps_gateInv : Keeps State.GateInv := by
  constructor
  case writeGate =>
    intro s v a hc _ h u hu
    rw [State.gateWritten_writeGate, Bool.or_eq_true, decide_eq_true_eq] at hu
    by_cases huv : u = v
    · exact ⟨a, huv ▸ Memory.load_store _ _ _⟩
    · obtain ⟨b, hb⟩ := h u (hu.resolve_left huv)
      exact ⟨b, (State.load_writeGate_other hc huv a).trans hb⟩
  case raiseLine => exact fun s l _ h => s.raiseLine_only_pics l ▸ h
  case ackLine => exact fun s l _ _ h => s.ackLine_only_pics l ▸ h
  all_goals intros; assumption

/-- Settles O58: a written slot holds the gate just stored there, and no other slot's bytes are touched. -/
theorem stepKeepsWrittenSlotsGates : Obligations.StepKeepsWrittenSlotsGates := by
  unfold Obligations.StepKeepsWrittenSlotsGates
  exact fun _ _ h st => keeps_gateInv.step (fun _ _ h => h) h st

theorem keeps_idtrInv : Keeps State.IdtrInv := by
  constructor
  case load => exact fun _ _ _ _ => ⟨rfl, rfl⟩
  case raiseLine => exact fun s l _ h => s.raiseLine_only_pics l ▸ h
  case ackLine => exact fun s l _ _ h => s.ackLine_only_pics l ▸ h
  all_goals intros; assumption

/-- The table, the written bits and IDTR stand as in the loaded state `s` (R80). -/
def State.SameTable (s u : State) : Prop := u.loaded = true ∧ u.mem = s.mem ∧ u.gw = s.gw ∧ u.idtr = s.idtr

theorem keeps_sameTable (s : State) : Keeps s.SameTable := by
  constructor
  case writeGate => exact fun _ _ _ _ hl h => absurd (h.1.symm.trans hl) Bool.true_eq_false.mp
  case load => exact fun _ hl h => absurd (h.1.symm.trans hl) Bool.true_eq_false.mp
  case raiseLine => exact fun s l _ h => s.raiseLine_only_pics l ▸ h
  case ackLine => exact fun s l _ _ h => s.ackLine_only_pics l ▸ h
  all_goals intros; assumption

/-- Settles O16: the two operations that write the table or IDTR ask for a machine that is not loaded. -/
theorem tableFixedAfterLoad : Obligations.TableFixedAfterLoad := by
  unfold Obligations.TableFixedAfterLoad
  exact fun s _ hl st => (keeps_sameTable s).step (fun _ _ h => h) ⟨hl, rfl, rfl, rfl⟩ st

/-- The machine runs with the registry of `s` (R108). -/
def State.SameRegistry (s u : State) : Prop := u.running = true ∧ u.reg = s.reg

theorem keeps_sameRegistry (s : State) : Keeps s.SameRegistry := by
  constructor
  case setReg => exact fun _ _ _ hn h => absurd (h.1.symm.trans hn) Bool.true_eq_false.mp
  case timerInit => exact fun _ _ hn h => absurd (h.1.symm.trans hn) Bool.true_eq_false.mp
  case enable => exact fun _ _ _ _ h => ⟨rfl, h.2⟩
  case raiseLine => exact fun s l _ h => s.raiseLine_only_pics l ▸ h
  case ackLine => exact fun s l _ _ h => s.ackLine_only_pics l ▸ h
  all_goals intros; assumption

/-- Settles O25: every registration asks for a machine that is not running. -/
theorem registryFixedWhileRunning : Obligations.RegistryFixedWhileRunning := by
  unfold Obligations.RegistryFixedWhileRunning
  exact fun s _ hr st => (keeps_sameRegistry s).step (fun _ _ h => h) ⟨hr, rfl⟩ st

/-- What no step takes back of the state `s`: its phase bits, its parameters and program, and its events (R21 to R23,
R33, R35). -/
structure State.GrowsTo (s u : State) : Prop where
  loaded : s.loaded = true → u.loaded = true
  remapped : s.remapped = true → u.remapped = true
  running : s.running = true → u.running = true
  cfg : u.cfg = s.cfg
  prog : u.prog = s.prog
  hist : s.hist <+: u.hist

theorem State.GrowsTo.trans {s t u : State} (h : s.GrowsTo t) (h' : t.GrowsTo u) : s.GrowsTo u where
  loaded := h'.loaded ∘ h.loaded
  remapped := h'.remapped ∘ h.remapped
  running := h'.running ∘ h.running
  cfg := h'.cfg.trans h.cfg
  prog := h'.prog.trans h.prog
  hist := h.hist.trans h'.hist

theorem keeps_growsTo (s : State) : Keeps s.GrowsTo := by
  constructor
  case raiseLine => exact fun u l _ h => u.raiseLine_only_pics l ▸ h.trans (by constructor <;> simp)
  case ackLine => exact fun u l _ _ h => u.ackLine_only_pics l ▸ h.trans (by constructor <;> simp)
  case enable => exact fun u _ _ _ h => h.trans (by constructor <;> simp [State.setIf])
  all_goals
    intros
    refine State.GrowsTo.trans ‹_› ?_
    constructor <;> simp

/-- Settles O60: every elementary update sets phase bits and appends events, or leaves them. -/
theorem stepOnlyGrowsHistoryAndPhases : Obligations.StepOnlyGrowsHistoryAndPhases := by
  unfold Obligations.StepOnlyGrowsHistoryAndPhases
  intro s t st
  have start : s.GrowsTo s := ⟨id, id, id, rfl, rfl, List.prefix_rfl⟩
  obtain ⟨loaded, remapped, running, cfg, prog, es, hist⟩ := (keeps_growsTo s).step
    (fun _ _ h => ⟨h.loaded, h.remapped, h.running, h.cfg, h.prog, h.hist⟩) start st
  exact ⟨loaded, remapped, running, cfg, prog, es, hist.symm⟩

end Sys2Proof.Machine
end

section
/-! The invariants about the levels, IF and the open frames: each update that opens, moves or closes a frame, saves or
restores IF, or starts the running phase is a case of its own (spec/60_exceptions.md R134, R136, R137;
spec/10_state.md R28, R31; spec/44_interrupt_enable.md R107 to R109). -/

namespace Sys2Proof.Machine

/-- With `depth` the number of the saved IF bits and of the open trampolines, a step that changes neither these nor the
depth keeps it so. -/
theorem State.LevelInv.of_eq {s t : State} (h : s.LevelInv) (hd : t.depth = s.depth) (hi : t.ifsave = s.ifsave)
    (hf : openTramps t.frames = openTramps s.frames) : t.LevelInv :=
  ⟨by rw [hd, hi]; exact h.1, by rw [hd, hf]; exact h.2⟩

/-- Inside a trampoline the level is not 0, and IF has been saved (R28, R134). -/
theorem State.LevelInv.ifsave_of_tramp {s : State} {saved : CpuRegs} {g : TrampStage} {rest : List Frame}
    (h : s.LevelInv) (hf : s.frames = .tramp saved g :: rest) :
    ∃ b bs, s.ifsave = b :: bs ∧ s.depth = bs.length + 1 ∧ openTramps rest = bs.length := by
  obtain ⟨hsave, htramps⟩ := h
  rw [hf, openTramps] at htramps
  cases hi : s.ifsave with
  | nil => rw [hi, List.length_nil] at hsave; omega
  | cons b bs =>
    rw [hi, List.length_cons] at hsave
    exact ⟨b, bs, rfl, hsave, by omega⟩

/-- A delivery opens one trampoline and saves one IF bit. -/
theorem State.LevelInv.trapEnter {s : State} (h : s.LevelInv) (v w : VectorNo) (e : Option Word) (cpu : CpuRegs) :
    (s.trapEnter v w e cpu).LevelInv := by
  obtain ⟨hsave, htramps⟩ := h
  exact ⟨by simp [hsave], by simp [openTramps, htramps]⟩

/-- The return from an interrupt closes one trampoline and takes off one saved IF bit. -/
theorem State.LevelInv.trapReturn {s : State} {saved : CpuRegs} {g : TrampStage} {rest : List Frame} (h : s.LevelInv)
    (hf : s.frames = .tramp saved g :: rest) : s.trapReturn.LevelInv := by
  obtain ⟨b, bs, hi, hd, ho⟩ := h.ifsave_of_tramp hf
  exact ⟨by simp [hi, hd], by simp [hf, hd, ho]⟩

theorem keeps_levelInv : Keeps State.LevelInv := by
  constructor
  case issue => exact fun _ _ _ _ hf h => h.of_eq rfl rfl (by rw [hf]; rfl)
  case dispatchReturn => exact fun s h => h.of_eq rfl rfl (openTramps_endDispatch s.frames)
  case trapReturn => exact fun _ _ _ hf h => h.trapReturn hf
  case timerTick => exact fun _ _ _ _ hf h => h.of_eq rfl rfl (by rw [hf]; rfl)
  case kbdRead => exact fun _ _ _ _ _ hf _ h => h.of_eq rfl rfl (by rw [hf]; rfl)
  case clientReturn => exact fun _ _ _ _ _ hf h => h.of_eq rfl rfl (by rw [hf]; rfl)
  case trapEnter => exact fun _ v _ w e cpu _ h => h.trapEnter v w e cpu
  case call => exact fun _ _ _ _ _ _ h => h.of_eq rfl rfl rfl
  case raiseLine => exact fun s l _ h => s.raiseLine_only_pics l ▸ h
  case ackLine => exact fun s l _ _ h => s.ackLine_only_pics l ▸ h
  all_goals intros; assumption

/-- The part of MaskInv beyond the levels: inside a delivery IF is 0, now and in every saved copy but the outermost
(R92, R137). -/
def State.Masked (s : State) : Prop := (0 < s.depth → s.intFlag = false) ∧ true ∉ s.ifsave.dropLast

theorem State.Masked.trapEnter {s : State} (hl : s.LevelInv) (h : s.Masked) (v w : VectorNo) (e : Option Word)
    (cpu : CpuRegs) : (s.trapEnter v w e cpu).Masked := by
  refine ⟨fun _ => rfl, ?_⟩
  cases hi : s.ifsave with
  | nil => simp [hi]
  | cons b bs =>
    have hd : s.intFlag = false := h.1 (by rw [hl.1, hi]; simp)
    have hsaved := h.2
    rw [hi] at hsaved
    simpa [hi, hd] using hsaved

theorem State.Masked.trapReturn {s : State} {saved : CpuRegs} {g : TrampStage} {rest : List Frame} (hl : s.LevelInv)
    (h : s.Masked) (hf : s.frames = .tramp saved g :: rest) : s.trapReturn.Masked := by
  obtain ⟨b, bs, hi, hd, -⟩ := hl.ifsave_of_tramp hf
  have hsaved := h.2
  rw [hi] at hsaved
  cases bs with
  | nil => exact ⟨fun hpos => absurd hpos (by simp [hd]), by simp [hi]⟩
  | cons b' bs =>
    rw [List.dropLast_cons_cons, List.mem_cons, not_or] at hsaved
    exact ⟨fun _ => by simpa [hi] using hsaved.1, by simpa [hi] using hsaved.2⟩

theorem keeps_maskInv : Keeps State.MaskInv := by
  have L := keeps_levelInv
  constructor
  case issue => exact fun s saved snap rest hf h => ⟨L.issue s saved snap rest hf h.1, h.2⟩
  case dispatchReturn => exact fun s h => ⟨L.dispatchReturn s h.1, h.2⟩
  case trapReturn => exact fun _ _ _ hf h => ⟨h.1.trapReturn hf, State.Masked.trapReturn h.1 h.2 hf⟩
  case timerTick => exact fun s k x rest hf h => ⟨L.timerTick s k x rest hf h.1, h.2⟩
  case kbdRead => exact fun s k x rest g hf hg h => ⟨L.kbdRead s k x rest g hf hg h.1, h.2⟩
  case clientReturn => exact fun s k x g rest hf h => ⟨L.clientReturn s k x g rest hf h.1, h.2⟩
  case trapEnter => exact fun _ v _ w e cpu _ h => ⟨h.1.trapEnter v w e cpu, State.Masked.trapEnter h.1 h.2 v w e cpu⟩
  case enable => exact fun s hd _ _ h => ⟨h.1, fun hpos => absurd (hpos.trans_eq hd) (Nat.lt_irrefl 0), h.2.2⟩
  case raiseLine => exact fun s l _ h => s.raiseLine_only_pics l ▸ h
  case ackLine => exact fun s l _ _ h => s.ackLine_only_pics l ▸ h
  all_goals intros; assumption

theorem keeps_phaseInv : Keeps State.PhaseInv := by
  constructor
  case load => exact fun s _ h => ⟨fun hr => ⟨rfl, (h.1 hr).2⟩, h.2⟩
  case remap => exact fun s _ _ h => ⟨fun hr => ⟨(h.1 hr).1, rfl⟩, h.2⟩
  case enable => exact fun s _ hl hm _ => ⟨fun _ => ⟨hl, hm⟩, fun _ => rfl, fun _ => rfl⟩
  case trapEnter =>
    intro s v a w e cpu _ ⟨hrun, hif, hsaved⟩
    refine ⟨hrun, fun h => absurd h Bool.false_ne_true, fun h => ?_⟩
    rw [State.trapEnter_ifsave, List.mem_cons] at h
    exact h.elim (fun h => hif h.symm) hsaved
  case trapReturn =>
    intro s saved rest _ ⟨hrun, hif, hsaved⟩
    refine ⟨hrun, fun h => ?_, fun h => hsaved (List.mem_of_mem_tail h)⟩
    rw [State.trapReturn_intFlag] at h
    cases hi : s.ifsave with
    | nil => exact hif (by simpa [hi] using h)
    | cons b bs => exact hsaved (by simp_all)
  case raiseLine => exact fun s l _ h => s.raiseLine_only_pics l ▸ h
  case ackLine => exact fun s l _ _ h => s.ackLine_only_pics l ▸ h
  all_goals intros; assumption

theorem keeps_enabledInv : Keeps State.EnabledInv := by
  have L := keeps_levelInv
  constructor
  case issue => exact fun s saved snap rest hf h => ⟨L.issue s saved snap rest hf h.1, h.2⟩
  case dispatchReturn => exact fun s h => ⟨L.dispatchReturn s h.1, h.2⟩
  case timerTick => exact fun s k x rest hf h => ⟨L.timerTick s k x rest hf h.1, h.2⟩
  case kbdRead => exact fun s k x rest g hf hg h => ⟨L.kbdRead s k x rest g hf hg h.1, h.2⟩
  case clientReturn => exact fun s k x g rest hf h => ⟨L.clientReturn s k x g rest hf h.1, h.2⟩
  case trapEnter =>
    exact fun _ v _ w e cpu _ h => ⟨h.1.trapEnter v w e cpu, fun hr => List.getLast?_cons_cons.trans (h.2 hr)⟩
  case trapReturn =>
    intro s saved rest hf h
    obtain ⟨b, bs, hi, -, -⟩ := h.1.ifsave_of_tramp hf
    refine ⟨h.1.trapReturn hf, fun hr => ?_⟩
    have hlast := h.2 hr
    rw [hi, List.getLast?_cons_cons] at hlast
    simpa [hi] using hlast
  case enable =>
    intro s hd _ _ h
    have hi : s.ifsave = [] := List.length_eq_zero_iff.mp (h.1.1.symm.trans hd)
    exact ⟨h.1, fun _ => congrArg (fun bs => (true :: bs).getLast?) hi⟩
  case raiseLine => exact fun s l _ h => s.raiseLine_only_pics l ▸ h
  case ackLine => exact fun s l _ _ h => s.ackLine_only_pics l ▸ h
  all_goals intros; assumption

/-- Settles O55: IF goes up only by ENABLE and by the return that restores it, and the outermost saved bit stays. -/
theorem stepKeepsThePhaseRules : Obligations.StepKeepsThePhaseRules := by
  unfold Obligations.StepKeepsThePhaseRules
  exact fun _ _ st => ⟨fun h => keeps_phaseInv.step (fun _ _ h => h) h st,
    fun h => keeps_enabledInv.step (fun _ _ h => h) h st⟩

/-- A client stands right only on an open DISPATCH call, wherever it stands itself (R104). -/
theorem stacked_client {k : Line} {h : Word} {g : ClientStage} {rest : List Frame} :
    stacked (.client k h g :: rest) = true ↔
      ∃ saved snap below, rest = .tramp saved (.called snap) :: below ∧ stacked below = true := by
  rcases rest with - | ⟨⟨saved, - | snap | -⟩ | ⟨_, _, _⟩, below⟩ <;> simp [stacked]

/-- A raise leaves a fault recorded (R29). -/
theorem State.raise_fault_ne_none (s : State) (c : FaultCode) : (s.raise c).fault ≠ none := by
  simp

/-- An operation opens no frame, or one client on top (R88, R104). -/
theorem ExecCase.frames {s t : State} (m : ExecCase s t) :
    t.frames = s.frames ∨ ∃ k h g, t.frames = .client k h g :: s.frames := by
  cases m with
  | acked k => rw [State.eoi_eq]; exact .inl rfl
  | invoked k h n =>
    obtain ⟨_, e⟩ | ⟨kind, _, e⟩ := (s.eoi k).invoke_cases k h n
    · rw [e, State.eoi_eq]
      exact .inl rfl
    · rw [e, State.eoi_eq]
      exact .inr ⟨k, h, firstStage kind, rfl⟩
  | _ => exact .inl rfl

/-- A DISPATCH called from a well-stacked machine has returned, or stands under its client (R86, R104). -/
theorem stacked_after_dispatch {fs rest : List Frame} {saved : CpuRegs} {snap : Snapshot} (h : stacked rest = true)
    (hf : fs = .tramp saved (.called snap) :: rest ∨
      ∃ k x g, fs = .client k x g :: .tramp saved (.called snap) :: rest) : stacked (endDispatch fs) = true := by
  obtain rfl | ⟨k, x, g, rfl⟩ := hf
  · exact h
  · exact h

/-- A delivery keeps the pairing: it raises its fault, or puts a trampoline on top (R134). -/
theorem State.StackInv.deliver {s : State} (h : s.StackInv) (v : VectorNo) (e : Option Word) (cpu : CpuRegs) :
    (s.deliver v e cpu).StackInv := by
  intro ht
  obtain ⟨c, _, r⟩ | ⟨_, w, _, r⟩ := s.deliver_cases v e cpu <;> rw [r] at ht ⊢
  · exact absurd ht (s.raise_fault_ne_none c)
  · exact h ht

/-- What a client does leaves it on its DISPATCH call, or closes both (R104). -/
theorem stacked_clientRun {s : State} {k : Line} {h : Word} {g : ClientStage} {rest : List Frame}
    (hf : s.frames = .client k h g :: rest) (hs : stacked s.frames = true) :
    stacked (s.clientRun k h g).frames = true := by
  rw [hf] at hs
  have hrest := hs
  obtain ⟨saved, snap, below, rfl, hbelow⟩ := stacked_client.mp hs
  cases g <;> simp only [State.clientRun, State.kbdRead, State.setStage_frames, State.timerTick_frames,
    State.portRead_frames, State.clientReturn_frames, hf, List.tail_cons]
  case timerStart => exact hrest
  case kbdStart => exact hrest
  all_goals exact hbelow

/-- The host's advance leaves the frames. -/
@[simp] theorem State.hostAdvance_frames (t : State) : t.hostAdvance.frames = t.frames := by
  obtain ⟨n, e⟩ := t.hostAdvance_eq
  rw [e]

/-- The clients' inits open and close no frame (R112, R117). -/
theorem State.frames_timerInit (s : State) (f : Word) : (s.timerInit f).frames = s.frames := by
  obtain e | e | ⟨_, _, e⟩ | ⟨_, _, e⟩ := s.timerInit_cases f <;> rw [e] <;> rfl

theorem State.frames_kbdInit (s : State) : s.kbdInit.frames = s.frames := by
  obtain e | ⟨_, e⟩ := s.kbdInit_cases <;> rw [e] <;> rfl

/-- A move of a faultless machine keeps the pairing of its clients and DISPATCH calls (R93, R104). -/
theorem Move.stackInv {s t : State} (m : Move s t) (h0 : s.fault = none) (h : s.StackInv) : t.StackInv := by
  have hs := h h0
  cases m with
  | exec _ _ _ _ _ _ hf _ => exact fun _ => hf ▸ hs
  | hostExec u _ _ hf _ => exact fun _ => by rw [State.hostAdvance_frames, hf]; exact hs
  | hostPrint _ hf _ => exact fun _ => by rw [State.hostAdvance_frames]; exact hs
  | timerInit f _ _ => exact fun _ => by rw [State.hostAdvance_frames, State.frames_timerInit]; exact hs
  | kbdInit _ _ => exact fun _ => by rw [State.hostAdvance_frames, State.frames_kbdInit]; exact hs
  | pendingWrite _ _ _ _ => exact fun _ => by rw [State.hostAdvance_frames]; exact hs
  | dispatch saved snap rest u hf hu =>
    have hrest : stacked rest = true := by rwa [hf] at hs
    intro hfault
    cases hn : u.fault with
    | some c => simp [hn] at hfault
    | none => simpa [hn] using stacked_after_dispatch hrest (exec_cases hu).frames
  | dispatchReturn saved snap rest hf => rw [hf] at hs; cases hs
  | trapReturn saved rest hf => rw [hf] at hs; exact fun _ => by rw [State.trapReturn_frames, hf]; exact hs
  | client k x g rest hf => exact fun _ => stacked_clientRun hf hs
  | clientRead => exact fun _ => hs
  | clientWrite => exact fun _ => hs
  | clientPrint => exact fun _ => hs
  | clientOwn => exact fun _ => hs
  | raiseLine l _ => exact s.raiseLine_only_pics l ▸ h
  | exception v e cpu => exact h.deliver _ _ _
  | request l cpu _ _ =>
    have ha : (s.ackLine l).StackInv := s.ackLine_only_pics l ▸ h
    exact ha.deliver _ _ _

/-- Settles O54: the levels and IF by the updates that touch them; the pairing of clients and DISPATCH calls by the
moves, because it holds again only once a DISPATCH has called its client or returned. -/
theorem stepKeepsIfMaskedInDeliveries : Obligations.StepKeepsIfMaskedInDeliveries := by
  unfold Obligations.StepKeepsIfMaskedInDeliveries
  intro s t st
  obtain ⟨-, hf, -, m⟩ := step_move st
  exact ⟨fun h => keeps_maskInv.step (fun _ _ h => h) h st, fun h => m.stackInv hf h⟩

end Sys2Proof.Machine
end

section
/-! The invariants about the two chips and about the snapshots, the reset state, and the gate fetch under the invariants
(spec/60_exceptions.md R132, R143; spec/42_pic_remap.md R96, R100; spec/10_state.md R36). -/

namespace Sys2Proof.Machine

/-- A command byte leaves a chip's vector base (R144, R147). -/
theorem Pic.base_command (c : Pic) (b : Byte) : (c.command b).base = c.base := by
  unfold Pic.command
  split_ifs <;> rfl

/-- A data byte leaves a chip's vector base, or sets it with bits 2:0 at 0 (R143, R145). -/
theorem Pic.base_data_low {c : Pic} (h : c.base &&& 7#8 = 0#8) (b : Byte) : (c.data b).base &&& 7#8 = 0#8 := by
  have masked : b &&& 0xF8#8 &&& 7#8 = 0#8 := by
    rw [BitVec.and_assoc, show (0xF8#8 &&& 7#8 : Byte) = 0#8 from rfl, BitVec.and_zero]
  unfold Pic.data
  cases c.initStep with
  | w2 => exact masked
  | w3 => exact h
  | w4 => exact h
  | ready => exact h

/-- A port write keeps bits 2:0 of both bases at 0 (R143). -/
theorem State.PicBaseInv.portWrite {s : State} (h : s.PicBaseInv) (p : PortNum) (b : Byte) :
    (s.portWrite p b).PicBaseInv := by
  obtain ⟨hp, hs⟩ := h
  constructor
  · rw [State.portWrite_picP]
    split_ifs
    · rwa [Pic.base_command]
    · exact Pic.base_data_low hp b
    · exact hp
  · rw [State.portWrite_picS]
    split_ifs
    · rwa [Pic.base_command]
    · exact Pic.base_data_low hs b
    · exact hs

/-- A raise sets a pending bit of one chip and nothing else (R148). -/
theorem State.raiseLine_eq (s : State) (l : Line) :
    ∃ p q : Byte, s.raiseLine l = { s with picP := { s.picP with irr := p }, picS := { s.picS with irr := q } } := by
  unfold State.raiseLine
  split
  · exact ⟨_, s.picS.irr, rfl⟩
  · exact ⟨s.picP.irr, _, rfl⟩

/-- An acknowledge moves pending and in-service bits and nothing else (R149). -/
theorem State.ackLine_eq (s : State) (l : Line) :
    ∃ p p' q q' : Byte,
      s.ackLine l =
        { s with picP := { s.picP with irr := p, isr := p' }, picS := { s.picS with irr := q, isr := q' } } := by
  unfold State.ackLine
  split
  · exact ⟨_, _, s.picS.irr, s.picS.isr, rfl⟩
  · exact ⟨s.picP.irr, _, _, _, rfl⟩

theorem keeps_picBaseInv : Keeps State.PicBaseInv := by
  constructor
  case pendingWrite => exact fun s w ws _ h => State.PicBaseInv.portWrite (s := { s with hostPending := ws }) h w.1 w.2
  case portWrite => exact fun _ _ _ _ _ p b _ _ h => h.portWrite p b
  case raiseLine =>
    intro s l _ h
    obtain ⟨_, _, e⟩ := s.raiseLine_eq l
    exact e ▸ h
  case ackLine =>
    intro s l _ _ h
    obtain ⟨_, _, _, _, e⟩ := s.ackLine_eq l
    exact e ▸ h
  case remap =>
    have low : (0x20#8 &&& 7#8 : Byte) = 0#8 ∧ (0x28#8 &&& 7#8 : Byte) = 0#8 := by decide
    exact fun _ _ _ _ => low
  case eoi => exact fun s k _ h => ⟨h.1, by dsimp only; split <;> exact h.2⟩
  all_goals intros; assumption

/-- No snapshot begins where the frames' snapshots are among the old ones. -/
theorem State.SnapInv.mono {s t : State} (h : s.SnapInv) (hsub : openSnaps t.frames ⊆ openSnaps s.frames) : t.SnapInv :=
  fun snap hs => h snap (hsub hs)

theorem keeps_snapInv : Keeps State.SnapInv := by
  constructor
  case issue => exact fun _ _ _ _ hf h => h.mono (by rw [hf]; exact List.Subset.refl _)
  case dispatchReturn => exact fun _ h => h.mono fun _ => openSnaps_endDispatch_sub
  case trapReturn => exact fun _ _ _ hf h => h.mono (by rw [State.trapReturn_frames, hf]; exact List.Subset.refl _)
  case timerTick => exact fun _ _ _ _ hf h => h.mono (by rw [hf]; exact List.Subset.refl _)
  case kbdRead => exact fun _ _ _ _ _ hf _ h => h.mono (by rw [hf]; exact List.Subset.refl _)
  case clientReturn => exact fun _ _ _ _ _ hf h => h.mono (by rw [hf]; exact List.Subset.refl _)
  case trapEnter =>
    intro s v a w e cpu _ h snap hsnap
    rw [State.trapEnter_frames, openSnaps, List.mem_cons] at hsnap
    obtain rfl | hsnap := hsnap
    · simp only [snapshotOf, BitVec.toNat_setWidth]
      omega
    · exact h snap hsnap
  case raiseLine => exact fun s l _ h => s.raiseLine_only_pics l ▸ h
  case ackLine => exact fun s l _ _ h => s.ackLine_only_pics l ▸ h
  all_goals intros; assumption

/-- Settles O56: IDTR is written by LOADIDT alone, a base by ICW2 with its low bits cut off, and a snapshot is built
from the 8-bit number its trampoline pushes. -/
theorem stepKeepsRegisterForms : Obligations.StepKeepsRegisterForms := by
  unfold Obligations.StepKeepsRegisterForms
  exact fun _ _ st => ⟨fun h => keeps_idtrInv.step (fun _ _ h => h) h st,
    fun h => keeps_picBaseInv.step (fun _ _ h => h) h st, fun h => keeps_snapInv.step (fun _ _ h => h) h st⟩

/-- A port that is no PIC's is none of the four (R38). -/
theorem isPicPort_eq_false_iff (p : PortNum) :
    isPicPort p = false ↔ p ≠ 0x20#16 ∧ p ≠ 0x21#16 ∧ p ≠ 0xA0#16 ∧ p ≠ 0xA1#16 := by
  simp [isPicPort, Config.picPCmd, Config.picPData, Config.picSCmd, Config.picSData, and_assoc]

/-- A write to a port that no PIC has adds its event and nothing else (R11, R45). -/
theorem State.portWrite_of_off_pic {p : PortNum} (h : isPicPort p = false) (s : State) (b : Byte) :
    s.portWrite p b = { s with hist := s.hist ++ [.pw p b] } := by
  obtain ⟨hPCmd, hPData, hSCmd, hSData⟩ := (isPicPort_eq_false_iff p).mp h
  simp [State.portWrite, Config.picPCmd, Config.picPData, Config.picSCmd, Config.picSData, hPCmd, hPData, hSCmd, hSData]

/-- The ports TIMER_INIT writes are the PIT's (R112). -/
theorem timerWrites_off_pic (p : Params) (f : Word) : ∀ w ∈ timerWrites p f, isPicPort w.1 = false := by
  simp [timerWrites, isPicPort_eq_false_iff, Config.pitCmdPort, Config.pitData]

/-- Where no client of the configuration has a PIC's port, an invoked client has none (R37, R38, R111). -/
theorem ports_of_clientOf_off_pic {c : Params} {h : Word} {kind : ClientKind} (hc : clientsOffPic c = true)
    (hk : clientOf c h = some kind) (k : Line) :
    ∀ p ∈ (Frame.client k h (firstStage kind)).ports, isPicPort p = false := by
  unfold clientOf at hk
  split_ifs at hk with h0 htimer hkbd
  · cases hk; exact fun _ hp => absurd hp List.not_mem_nil
  · cases hk; exact fun _ hp => absurd hp List.not_mem_nil
  · obtain ⟨e, he, rfl⟩ := Option.map_eq_some_iff.mp hk
    simp only [clientsOffPic, List.all_eq_true, Bool.not_eq_true'] at hc
    exact hc e (List.mem_of_find?_eq_some he)

/-- The newest frame may be exchanged for one whose client has no PIC port. -/
theorem State.OffPic.newFrame {s t : State} {f : Frame} (h : s.OffPic) (hc : t.cfg = s.cfg)
    (hp : t.hostPending = s.hostPending) (hf : t.frames = f :: s.frames ∨ t.frames = f :: s.frames.tail)
    (hports : ∀ p ∈ f.ports, isPicPort p = false) : t.OffPic := by
  obtain ⟨hcfg, hpending, hframes⟩ := h
  refine ⟨hc ▸ hcfg, hp ▸ hpending, fun g hg => ?_⟩
  obtain hf | hf := hf <;> rw [hf, List.mem_cons] at hg
  · obtain rfl | hg := hg
    · exact hports
    · exact hframes g hg
  · obtain rfl | hg := hg
    · exact hports
    · exact hframes g (List.mem_of_mem_tail hg)

/-- Frames may be closed. -/
theorem State.OffPic.fewerFrames {s t : State} (h : s.OffPic) (hc : t.cfg = s.cfg)
    (hp : t.hostPending = s.hostPending) (hf : t.frames ⊆ s.frames) : t.OffPic :=
  ⟨hc ▸ h.1, hp ▸ h.2.1, fun f hm => h.2.2 f (hf hm)⟩

/-- DISPATCH's return changes no client. -/
theorem State.OffPic.dispatchReturn {s : State} (h : s.OffPic) : s.dispatchReturn.OffPic := by
  cases hf : s.frames with
  | nil => exact h.fewerFrames rfl rfl (by rw [State.dispatchReturn_frames, hf]; exact List.Subset.refl _)
  | cons f rest =>
    have keep (e : endDispatch s.frames = s.frames) : s.dispatchReturn.OffPic :=
      h.fewerFrames rfl rfl (e ▸ List.Subset.refl _)
    cases f with
    | client k x g => exact keep (by rw [hf]; rfl)
    | tramp saved g =>
      cases g with
      | issue snap => exact keep (by rw [hf]; rfl)
      | ret => exact keep (by rw [hf]; rfl)
      | called snap =>
        exact h.newFrame (f := .tramp saved .ret) rfl rfl (.inr (by rw [State.dispatchReturn_frames, hf]; rfl))
          fun _ hm => absurd hm List.not_mem_nil

theorem keeps_offPic : Keeps State.OffPic := by
  have none_of_tramp (saved : CpuRegs) (g : TrampStage) : ∀ p ∈ (Frame.tramp saved g).ports, isPicPort p = false :=
    fun _ hm => absurd hm List.not_mem_nil
  constructor
  case timerInit => exact fun s f _ h => ⟨h.1, timerWrites_off_pic s.cfg f, h.2.2⟩
  case pendingWrite =>
    exact fun s w ws hw h => ⟨h.1, fun v hv => h.2.1 v (hw ▸ List.mem_cons_of_mem w hv), h.2.2⟩
  case issue => exact fun _ saved _ _ hf h => h.newFrame rfl rfl (.inr (by rw [hf]; rfl)) (none_of_tramp saved _)
  case dispatchReturn => exact fun _ h => h.dispatchReturn
  case trapReturn => exact fun s _ _ _ h => h.fewerFrames rfl rfl (List.tail_subset s.frames)
  case timerTick =>
    exact fun _ k x _ hf h => h.newFrame (f := .client k x .leave) rfl rfl (.inr (by rw [hf]; rfl))
      fun _ hm => absurd hm List.not_mem_nil
  case kbdRead =>
    intro s k x rest g hf hg h
    refine h.newFrame (f := .client k x g) rfl rfl (.inr (by rw [hf]; rfl)) fun _ hm => ?_
    obtain rfl | rfl := hg <;> exact absurd hm List.not_mem_nil
  case clientReturn =>
    exact fun _ _ _ _ rest hf h => h.fewerFrames rfl rfl (by rw [hf]; exact List.subset_cons_self _ rest)
  case trapEnter => exact fun _ _ _ _ _ cpu _ h => h.newFrame rfl rfl (.inl rfl) (none_of_tramp cpu _)
  case call => exact fun s k x n kind hk h => h.newFrame rfl rfl (.inl rfl) (ports_of_clientOf_off_pic h.1 hk k)
  case raiseLine => exact fun s l _ h => s.raiseLine_only_pics l ▸ h
  case ackLine => exact fun s l _ _ h => s.ackLine_only_pics l ▸ h
  all_goals intros; assumption

/-- Both chips hold what PICREMAP leaves, once it has run (R96, R100). -/
def State.Programmed (s : State) : Prop :=
  s.remapped = true → s.picP.Programmed 0x20#8 0x04#8 ∧ s.picS.Programmed 0x28#8 0x02#8

theorem keeps_remapInv : Keeps State.RemapInv := by
  have O := keeps_offPic
  have write (s : State) (p : PortNum) (b : Byte) (hp : isPicPort p = false) (h : s.Programmed) :
      (s.portWrite p b).Programmed := s.portWrite_of_off_pic hp b ▸ h
  constructor
  case timerInit => exact fun s f hr h => ⟨O.timerInit s f hr h.1, h.2⟩
  case pendingWrite =>
    intro s w ws hw h
    have hoff : isPicPort w.1 = false := h.1.2.1 w (hw ▸ List.mem_cons_self)
    exact ⟨O.pendingWrite s w ws hw h.1, write { s with hostPending := ws } w.1 w.2 hoff h.2⟩
  case issue => exact fun s saved snap rest hf h => ⟨O.issue s saved snap rest hf h.1, h.2⟩
  case dispatchReturn => exact fun s h => ⟨O.dispatchReturn s h.1, h.2⟩
  case trapReturn => exact fun s saved rest hf h => ⟨O.trapReturn s saved rest hf h.1, h.2⟩
  case timerTick => exact fun s k x rest hf h => ⟨O.timerTick s k x rest hf h.1, h.2⟩
  case kbdRead => exact fun s k x rest g hf hg h => ⟨O.kbdRead s k x rest g hf hg h.1, h.2⟩
  case clientReturn => exact fun s k x g rest hf h => ⟨O.clientReturn s k x g rest hf h.1, h.2⟩
  case portWrite =>
    intro s k x ports rest p b hf hp h
    have hoff : isPicPort p = false := h.1.2.2 (.client k x (.free ports)) (hf ▸ List.mem_cons_self) p hp
    exact ⟨h.1, write s p b hoff h.2⟩
  case trapEnter => exact fun s v a w e cpu hg h => ⟨O.trapEnter s v a w e cpu hg h.1, h.2⟩
  case call => exact fun s k x n kind hk h => ⟨O.call s k x n kind hk h.1, h.2⟩
  case raiseLine =>
    intro s l _ h
    obtain ⟨_, _, e⟩ := s.raiseLine_eq l
    exact e ▸ h
  case ackLine =>
    intro s l _ _ h
    obtain ⟨_, _, _, _, e⟩ := s.ackLine_eq l
    exact e ▸ h
  case remap =>
    exact fun s _ _ h => ⟨h.1, fun _ => ⟨⟨rfl, rfl, rfl, rfl, rfl, rfl, rfl⟩, rfl, rfl, rfl, rfl, rfl, rfl, rfl⟩⟩
  case eoi => exact fun s k _ h => ⟨h.1, fun hr => ⟨(h.2 hr).1, by dsimp only; split <;> exact (h.2 hr).2⟩⟩
  all_goals intros; assumption

/-- Settles O57: off the PICs' ports only PICREMAP writes what it programs; raises, acknowledges and EOIs move pending
and in-service bits. -/
theorem stepKeepsRemappedPicsProgrammed : Obligations.StepKeepsRemappedPicsProgrammed := by
  unfold Obligations.StepKeepsRemappedPicsProgrammed
  exact fun _ _ h st => keeps_remapInv.step (fun _ _ h => h) h st

/-- A drawn base has bits 2:0 cut off at reset (R143, R150). -/
theorem Pic.base_resetFrom_low (d : Pic) : d.resetFrom.base &&& 7#8 = 0#8 := by
  change d.base &&& 0xF8#8 &&& 7#8 = 0#8
  rw [BitVec.and_assoc, show (0xF8#8 &&& 7#8 : Byte) = 0#8 from rfl, BitVec.and_zero]

section Reset

variable (p : Params) (d : ResetDraw) (o : Outside)

/-- No slot is marked written at reset (R36). -/
theorem State.gateWritten_resetWith (v : VectorNo) : (State.resetWith p d o).gateWritten v = false :=
  BitVec.getLsbD_zero

theorem State.picBaseInv_resetWith : (State.resetWith p d o).PicBaseInv :=
  ⟨d.picP.base_resetFrom_low, d.picS.base_resetFrom_low⟩

theorem State.levelInv_resetWith : (State.resetWith p d o).LevelInv := ⟨rfl, rfl⟩

theorem State.maskInv_resetWith : (State.resetWith p d o).MaskInv :=
  ⟨levelInv_resetWith p d o, fun _ => rfl, List.not_mem_nil⟩

/-- Nothing is on at reset, so nothing the phase rules ask for is due (R36). -/
theorem State.phaseInv_resetWith : (State.resetWith p d o).PhaseInv :=
  ⟨fun h => absurd h Bool.false_ne_true, fun h => absurd h Bool.false_ne_true, fun h => absurd h List.not_mem_nil⟩

theorem State.enabledInv_resetWith : (State.resetWith p d o).EnabledInv :=
  ⟨levelInv_resetWith p d o, fun h => absurd h Bool.false_ne_true⟩

theorem State.idtrInv_resetWith : (State.resetWith p d o).IdtrInv := fun h => absurd h Bool.false_ne_true

theorem State.snapInv_resetWith : (State.resetWith p d o).SnapInv := fun _ h => absurd h List.not_mem_nil

theorem State.gateInv_resetWith : (State.resetWith p d o).GateInv := fun v h =>
  absurd (h.symm.trans (gateWritten_resetWith p d o v)) Bool.true_eq_false.mp

theorem State.remapInv_resetWith (h : clientsOffPic p = true) : (State.resetWith p d o).RemapInv :=
  ⟨⟨h, fun _ hw => absurd hw List.not_mem_nil, fun _ hf => absurd hf List.not_mem_nil⟩,
    fun hr => absurd hr Bool.false_ne_true⟩

end Reset

/-- Settles O51: every clause is a field of the reset state as it stands. -/
theorem resetHoldsTheStatedValues : Obligations.ResetHoldsTheStatedValues := by
  unfold Obligations.ResetHoldsTheStatedValues
  intro p d o
  have empty (k : Fin 16) : (State.resetWith p d o).reg[k] = 0#32 := Vector.getElem_replicate k.isLt
  exact ⟨rfl, rfl, rfl, rfl, empty, rfl, rfl, rfl, rfl, rfl, rfl, rfl, State.gateWritten_resetWith p d o, rfl, rfl, rfl,
    State.picBaseInv_resetWith p d o⟩

/-- Settles O52, invariant by invariant. -/
theorem invariantsHoldAtReset : Obligations.InvariantsHoldAtReset := by
  unfold Obligations.InvariantsHoldAtReset
  intro p d o hmem
  exact ⟨hmem, State.maskInv_resetWith p d o, State.phaseInv_resetWith p d o, State.enabledInv_resetWith p d o,
    State.idtrInv_resetWith p d o, State.picBaseInv_resetWith p d o, State.snapInv_resetWith p d o,
    State.gateInv_resetWith p d o, fun _ => rfl, State.remapInv_resetWith p d o⟩

/-- A gate's present bit is bit 7 of the flags byte (R64, R132). -/
theorem gatePresent_gateOf (p : Params) (a : Word) : gatePresent (gateOf p a) = p.gateFlags.getLsbD 7 :=
  getLsbD_gateOf p a 47

/-- The gate fetch finds a gate not present only in a written slot of a loaded table (R125, R132). -/
theorem State.gateFetch_not_present {s : State} {v : VectorNo} (h : s.gateFetch v = .error .gateNotPresent) :
    s.loaded = true ∧ s.gateWritten v = true ∧ gatePresent (s.mem.load (slotAddr s.idtr.base v) 8) = false := by
  unfold State.gateFetch at h
  split_ifs at h with hl hw
  · cases h
  · cases h
  · dsimp only at h
    split_ifs at h with hp
    · exact ⟨by simpa using hl, by simpa using hw, hp⟩
    · split at h <;> cases h

/-- Settles O59: a written slot of the loaded table holds a gate of the configuration, whose present bit is the flags
byte's. -/
theorem gateNotPresentCannotArise : Obligations.GateNotPresentCannotArise := by
  unfold Obligations.GateNotPresentCannotArise
  intro s v hgates hidtr hflags h
  obtain ⟨hl, hw, hp⟩ := State.gateFetch_not_present h
  obtain ⟨a, ha⟩ := hgates v hw
  rw [(hidtr hl).1, ha, gatePresent_gateOf, hflags] at hp
  cases hp

end Sys2Proof.Machine
end

section
/-! The descriptor table: the address in a gate, the slot written twice, and the limit that covers it
(spec/30_encoding.md R64, R65; spec/40_descriptor_table.md R74, R77). -/

namespace Sys2Proof.Machine

/-- The low half of the address lies in the gate's lowest field (R64). -/
theorem extractLsb'_gateOf_low (p : Params) (a : Word) : (gateOf p a).extractLsb' 0 16 = a.extractLsb' 0 16 := by
  rw [extractLsb'_gateOf, BitVec.extractLsb'_append_eq_of_add_le (by decide), BitVec.extractLsb'_eq_self]

/-- The high half of the address lies in the gate's highest field (R64). -/
theorem extractLsb'_gateOf_high (p : Params) (a : Word) : (gateOf p a).extractLsb' 48 16 = a.extractLsb' 16 16 := by
  rw [extractLsb'_gateOf]
  simp (disch := omega) only [BitVec.extractLsb'_append_eq_of_le]
  simp

/-- The address put together from a gate's halves is the one the gate was made of (R65). -/
theorem gateAddr_gateOf (p : Params) (a : Word) : gateAddr (gateOf p a) = a := by
  rw [gateAddr, extractLsb'_gateOf_low, extractLsb'_gateOf_high]
  exact (BitVec.extractLsb'_append_extractLsb'_eq_extractLsb' (by decide)).trans BitVec.extractLsb'_eq_self

/-- The reassembly as a sum: the high half counts 2^16 (R65). -/
theorem toNat_gateAddr (g : Word64) :
    (gateAddr g).toNat = (g.extractLsb' 48 16).toNat * 65536 + (g.extractLsb' 0 16).toNat := by
  have happ : (gateAddr g).toNat = (g.extractLsb' 48 16).toNat <<< 16 ||| (g.extractLsb' 0 16).toNat :=
    BitVec.toNat_append ..
  rw [happ, ← Nat.shiftLeft_add_eq_or_of_lt (g.extractLsb' 0 16).isLt, Nat.shiftLeft_eq]

/-- Settles O11, half by half. -/
theorem gateAddressReassembles : Obligations.GateAddressReassembles := by
  unfold Obligations.GateAddressReassembles
  exact ⟨fun p a => ⟨extractLsb'_gateOf_low p a, extractLsb'_gateOf_high p a, gateAddr_gateOf p a⟩, toNat_gateAddr⟩

/-- A second store at the same address leaves nothing of the first (R11, R74). -/
theorem Memory.read_store_store (m : Memory) (a : Word) (v v' : Word64) {n : Nat} (hn : n ≤ 2 ^ 32) (x : Nat) :
    ((m.store a n v).store a n v').read x = (m.store a n v').read x := by
  by_cases hx : ∃ i < n, x = (a + BitVec.ofNat 32 i).toNat
  · obtain ⟨i, hi, rfl⟩ := hx
    rw [Memory.read_store_same hi hn, Memory.read_store_same hi hn]
  · have out : ∀ i < n, x ≠ (a + BitVec.ofNat 32 i).toNat := fun i hi e => hx ⟨i, hi, e⟩
    rw [Memory.read_store_other out, Memory.read_store_other out, Memory.read_store_other out]

/-- Settles O13: the second write stores over every byte of the first, and sets a bit that is set. -/
theorem setgateOverwriteReplacesTheSlot : Obligations.SetgateOverwriteReplacesTheSlot := by
  unfold Obligations.SetgateOverwriteReplacesTheSlot
  intro s v a b hl hr
  refine ⟨_, _, _, exec_setgate_of_allowed hl hr a, exec_setgate_of_allowed (s := s.writeGate v a) hl hr b,
    exec_setgate_of_allowed hl hr b, fun x => ?memory, ?written, rfl, ?events⟩
  case memory => exact Memory.read_store_store s.mem _ _ _ (by decide) x
  case written => rw [State.writeGate_gw, State.writeGate_gw, State.writeGate_gw, BitVec.or_assoc, BitVec.or_self]
  case events => rw [State.writeGate_hist, State.writeGate_hist, List.append_assoc]; rfl

/-- The address of a slot of a table that does not wrap (R18, R40, R43). -/
theorem toNat_slotAddr {b : Word} (v : VectorNo) (h : b.toNat + 2047 ≤ 0xFFFFFFFF) :
    (slotAddr b v).toNat = b.toNat + 8 * v.toNat := by
  simpa using slotAddr_toNat (i := 0) v h (by decide)

/-- Settles O15: slot 255, the last, ends at the last byte the limit gives. -/
theorem limitCoversEverySlot : Obligations.LimitCoversEverySlot := by
  unfold Obligations.LimitCoversEverySlot
  intro s hc hl
  refine ⟨_, exec_loadidt_of_not_loaded hl, rfl, fun v => ?_⟩
  have hv := v.isLt
  have hlimit : (0x07FF#16 : Half).toNat = 2047 := rfl
  simp only [toNat_slotAddr v ((idtFits_iff _).mp hc), hlimit]
  omega

end Sys2Proof.Machine
end

section
/-! The PICs: the remap, the vectors of the request lines, the initialisation sequence, the EOI and the raise, and a
free client's choices, which reach the PICs' ports (spec/42_pic_remap.md; spec/60_exceptions.md R128, R143 to R148). -/

namespace Sys2Proof.Machine

/-- PICREMAP before ENABLE and not yet run (R94). -/
theorem exec_picremap_of_allowed {s : State} (hr : s.running = false) (hm : s.remapped = false) :
    exec .picremap s = .next { s.portWrites remapWrites with remapped := true } := by
  simp [exec, execPicremap, hr, hm]

/-- PICREMAP in the running phase (R94). -/
theorem exec_picremap_of_running {s : State} (hr : s.running = true) :
    exec .picremap s = .next (s.raise .lateRemap) := by
  simp [exec, execPicremap, hr]

/-- A second PICREMAP before ENABLE (R94). -/
theorem exec_picremap_of_remapped {s : State} (hr : s.running = false) (hm : s.remapped = true) :
    exec .picremap s = .next (s.raise .doubleRemap) := by
  simp [exec, execPicremap, hr, hm]

/-- Settles O17, by the order of PICREMAP's checks; the chips' end state is that of the ten writes. -/
theorem picremapProgramsBothChipsOrFaults : Obligations.PicremapProgramsBothChipsOrFaults := by
  unfold Obligations.PicremapProgramsBothChipsOrFaults
  refine ⟨decode_picremap_word, fun s => ⟨fun hr hm => ?completes, fun hf hr => ?late, fun hf hr hm => ?double⟩⟩
  case completes => rw [exec_picremap_of_allowed hr hm, State.portWrites_remap]; rfl
  case late => rw [exec_picremap_of_running hr, State.raise_eq_of_no_fault hf]
  case double => rw [exec_picremap_of_remapped hr hm, State.raise_eq_of_no_fault hf]

theorem isPrimaryLine_of_low {l : Line} (h : l.toNat < 8) : isPrimaryLine l = true := decide_eq_true h

theorem isPrimaryLine_of_high {l : Line} (h : 8 ≤ l.toNat) : isPrimaryLine l = false :=
  decide_eq_false (Nat.not_lt.mpr h)

/-- The input of a primary line is its number (R128). -/
theorem inputOf_of_primary {l : Line} (h : l.toNat < 8) : inputOf l = l.toNat := Nat.mod_eq_of_lt h

/-- The input of a secondary line counts from 8 (R128). -/
theorem inputOf_of_secondary {l : Line} (h : 8 ≤ l.toNat) : inputOf l = l.toNat - 8 := by
  have := l.isLt
  unfold inputOf
  omega

/-- The vector of a primary line comes from the primary chip's base (R128, R149). -/
theorem State.lineVector_of_primary (s : State) {l : Line} (h : l.toNat < 8) :
    s.lineVector l = s.picP.base + BitVec.ofNat 8 l.toNat := by
  rw [State.lineVector, isPrimaryLine_of_low h, if_pos rfl, inputOf_of_primary h]

/-- The vector of a secondary line comes from the secondary chip's base (R128, R149). -/
theorem State.lineVector_of_secondary (s : State) {l : Line} (h : 8 ≤ l.toNat) :
    s.lineVector l = s.picS.base + BitVec.ofNat 8 (l.toNat - 8) := by
  rw [State.lineVector, isPrimaryLine_of_high h, if_neg Bool.false_ne_true, inputOf_of_secondary h]

/-- Settles O18, chip by chip: the bases are 32 and 40, and no sum wraps. -/
theorem remappedLinesRaiseVectors32Up : Obligations.RemappedLinesRaiseVectors32Up := by
  unfold Obligations.RemappedLinesRaiseVectors32Up
  intro s l ⟨_, _, _, hbaseP, _⟩ ⟨_, _, _, hbaseS, _⟩
  have hl := l.isLt
  by_cases h : l.toNat < 8
  · rw [s.lineVector_of_primary h, hbaseP, BitVec.toNat_add, BitVec.toNat_ofNat, BitVec.toNat_ofNat]
    omega
  · rw [s.lineVector_of_secondary (by omega), hbaseS, BitVec.toNat_add, BitVec.toNat_ofNat, BitVec.toNat_ofNat]
    omega

/-- A write to a command port is the command of the chip that has it, and leaves the other (R45, R144). -/
theorem State.pics_portWrite_command (s : State) (b : Byte) :
    ((s.portWrite 0x20#16 b).picP = s.picP.command b ∧ (s.portWrite 0x20#16 b).picS = s.picS) ∧
      (s.portWrite 0xA0#16 b).picS = s.picS.command b ∧ (s.portWrite 0xA0#16 b).picP = s.picP :=
  ⟨⟨rfl, rfl⟩, rfl, rfl⟩

/-- A write to a data port is the data write of the chip that has it, and leaves the other (R45, R145, R146). -/
theorem State.pics_portWrite_data (s : State) (b : Byte) :
    ((s.portWrite 0x21#16 b).picP = s.picP.data b ∧ (s.portWrite 0x21#16 b).picS = s.picS) ∧
      (s.portWrite 0xA1#16 b).picS = s.picS.data b ∧ (s.portWrite 0xA1#16 b).picP = s.picP :=
  ⟨⟨rfl, rfl⟩, rfl, rfl⟩

/-- A command byte with bit 4 set is ICW1 (R144). -/
theorem Pic.command_of_icw1 {b : Byte} (h : b.getLsbD 4 = true) (c : Pic) :
    c.command b =
      { c with initStep := .w2, ic4 := b.getLsbD 0, sngl := b.getLsbD 1, imr := 0#8, isr := 0#8 } := by
  rw [Pic.command, if_pos h, Pic.icw1]

/-- A data byte is what the chip's place in its initialisation sequence makes of it (R145, R146). -/
theorem Pic.data_cases (c : Pic) (b : Byte) :
    (c.initStep = .w2 → c.data b =
        { c with
          base := b &&& 0xF8#8
          initStep := if c.sngl = false then .w3 else if c.ic4 = true then .w4 else .ready }) ∧
      (c.initStep = .w3 → c.data b = { c with cascade := b, initStep := if c.ic4 = true then .w4 else .ready }) ∧
      (c.initStep = .w4 → c.data b = { c with mode := b, initStep := .ready }) ∧
      (c.initStep = .ready → c.data b = { c with imr := b }) := by
  refine ⟨fun h => ?icw2, fun h => ?icw3, fun h => ?icw4, fun h => ?mask⟩ <;> simp only [Pic.data, h]
  case icw2 => cases c.sngl <;> rfl

/-- Settles O19: the command ports give ICW1, the data ports what the sequence makes of the byte. -/
theorem picPortWritesFollowTheSequence : Obligations.PicPortWritesFollowTheSequence := by
  unfold Obligations.PicPortWritesFollowTheSequence
  intro s b
  obtain ⟨⟨hP, hPS⟩, hS, hSP⟩ := s.pics_portWrite_command b
  obtain ⟨⟨hdP, hdPS⟩, hdS, hdSP⟩ := s.pics_portWrite_data b
  refine ⟨fun h => ⟨hP.trans (Pic.command_of_icw1 h _), hPS, hS.trans (Pic.command_of_icw1 h _), hSP⟩, hdPS, hdSP,
    fun c d hcd => ?_⟩
  have hd : d = c.data b := by
    obtain ⟨rfl, rfl⟩ | ⟨rfl, rfl⟩ := hcd
    · exact hdP
    · exact hdS
  exact hd ▸ c.data_cases b

/-- Adding all ones carries into bit `j` exactly where a lower bit is set. -/
theorem carry_allOnes {w : Nat} (x : BitVec w) {j : Nat} (hj : j ≤ w) :
    BitVec.carry j x (BitVec.allOnes w) false = (List.range j).any fun i => x.getLsbD i := by
  induction j with
  | zero => simp
  | succ j ih =>
    rw [BitVec.carry_succ, ih (by omega), List.range_succ, List.any_append, BitVec.getLsbD_allOnes,
      decide_eq_true (show j < w by omega), List.any_cons, List.any_nil, Bool.or_false]
    generalize (List.range j).any (fun i => x.getLsbD i) = lower
    cases x.getLsbD j <;> cases lower <;> rfl

/-- Taking 1 off and masking clears the lowest set bit: a bit stays exactly where a lower one is set. -/
theorem getLsbD_and_sub_one {w : Nat} (x : BitVec w) {j : Nat} (hj : j < w) :
    (x &&& (x - 1#w)).getLsbD j = (x.getLsbD j && (List.range j).any fun i => x.getLsbD i) := by
  rw [BitVec.sub_eq_add_neg, BitVec.neg_one_eq_allOnes, BitVec.getLsbD_and, BitVec.getLsbD_add hj,
    BitVec.getLsbD_allOnes, decide_eq_true hj, carry_allOnes x (by omega)]
  cases x.getLsbD j <;> simp

/-- The command byte 0x20 is the EOI, which changes in-service bits alone (R147). -/
theorem Pic.command_eoi (c : Pic) : c.command 0x20#8 = { c with isr := c.isr &&& (c.isr - 1#8) } := rfl

/-! What each choice of a free client does, an equation per choice (R106, R111). -/

section FreeClient

variable {s : State} {k : Line} {h : Word} {ports : List PortNum} {rest : List Frame}

theorem clientAct_portRead (hf : s.frames = .client k h (.free ports) :: rest) (p : PortNum) (c : Choice) :
    clientAct (.portRead p) s c = if p ∈ ports then .next (s.portRead p) else .refused (.notEnabled c) := by
  simp only [clientAct, hf]

theorem clientAct_portWrite (hf : s.frames = .client k h (.free ports) :: rest) (p : PortNum) (b : Byte) (c : Choice) :
    clientAct (.portWrite p b) s c =
      if p ∈ ports then
        if (p = Config.picPCmd ∨ p = Config.picSCmd) ∧ picCommandCovered b = false then
          .fault (.picCommandUnmodelled p b)
        else .next (s.portWrite p b)
      else .refused (.notEnabled c) := by
  simp only [clientAct, hf]

theorem clientAct_print (hf : s.frames = .client k h (.free ports) :: rest) (x : Text) (c : Choice) :
    clientAct (.print x) s c = .next (s.screenPrint x) := by
  simp only [clientAct, hf]

theorem clientAct_host (hf : s.frames = .client k h (.free ports) :: rest) (cw : Word64) (c : Choice) :
    clientAct (.host cw) s c = runWord .host cw s := by
  simp only [clientAct, hf]

theorem clientAct_own (hf : s.frames = .client k h (.free ports) :: rest) (c : Choice) :
    clientAct .own s c = .next s := by
  simp only [clientAct, hf]

end FreeClient

/-- The step an entry of a free client names is that client's (R106, R111). -/
theorem step_of_act {s : State} {a : ClientAct} {more : List Choice} (live : s.Live) (hd : s.due = .act a :: more) :
    step s = clientAct a { s with sched := more } (.act a) := step_of_due live hd

/-- Settles O20: an EOI takes 1 off the in-service bits and masks with them; the uncovered byte stops a client's write
(assumption log 17). -/
theorem nonSpecificEoiClearsTheLowestBit : Obligations.NonSpecificEoiClearsTheLowestBit := by
  unfold Obligations.NonSpecificEoiClearsTheLowestBit
  constructor
  · intro c
    rw [Pic.command_eoi]
    refine ⟨rfl, fun h => ?_, fun j hj => getLsbD_and_sub_one c.isr hj⟩
    rw [show c.isr &&& (c.isr - 1#8) = c.isr by rw [h, BitVec.zero_and]]
  · intro s k h ports rest more p b live hf hp hd hport hbit hb
    have uncovered : picCommandCovered b = false := by
      rw [picCommandCovered, hbit, beq_false_of_ne hb, Bool.false_or]
    have command : (p = Config.picPCmd ∨ p = Config.picSCmd) ∧ picCommandCovered b = false := ⟨hport, uncovered⟩
    rw [step_of_act live hd, clientAct_portWrite (s := { s with sched := more }) hf, if_pos hp, if_pos command]

/-- Settles O21, by the half the line lies in. -/
theorem eoiSequenceAcknowledges : Obligations.EoiSequenceAcknowledges := by
  unfold Obligations.EoiSequenceAcknowledges
  exact fun s _ => ⟨s.eoi_of_secondary, s.eoi_of_primary⟩

/-- A raise of a primary line, at its own input of the primary chip (R148). -/
theorem State.raiseLine_of_primary (s : State) {l : Line} (h : l.toNat < 8) :
    s.raiseLine l = { s with picP := s.picP.raiseInput l.toNat } := by
  rw [State.raiseLine, isPrimaryLine_of_low h, if_pos rfl, inputOf_of_primary h]

/-- A raise of a secondary line, at its own input of the secondary chip (R148). -/
theorem State.raiseLine_of_secondary (s : State) {l : Line} (h : 8 ≤ l.toNat) :
    s.raiseLine l = { s with picS := s.picS.raiseInput (l.toNat - 8) } := by
  rw [State.raiseLine, isPrimaryLine_of_high h, if_neg Bool.false_ne_true, inputOf_of_secondary h]

/-- A raise sets the input's pending bit and no other (R148). -/
theorem Pic.irr_raiseInput (c : Pic) {i : Nat} (hi : i < 8) (j : Nat) :
    (c.raiseInput i).irr.getLsbD j = (decide (j = i) || c.irr.getLsbD j) := by
  rw [Pic.raiseInput, BitVec.getLsbD_or, BitVec.getLsbD_twoPow, Bool.or_comm, decide_eq_true hi, Bool.true_and]
  simp only [eq_comm]

/-- A raise of a pending input is lost (R148). -/
theorem Pic.raiseInput_of_pending {c : Pic} {i : Nat} (hi : i < 8) (h : c.irr.getLsbD i = true) :
    c.raiseInput i = c := by
  have hirr : (c.raiseInput i).irr = c.irr := by
    apply BitVec.eq_of_getLsbD_eq
    intro j _
    rw [c.irr_raiseInput hi]
    by_cases hj : j = i
    · rw [hj, h, Bool.or_true]
    · rw [decide_eq_false hj, Bool.false_or]
  change { c with irr := (c.raiseInput i).irr } = c
  rw [hirr]

/-- A raise of any line but 2 is a step (R148). -/
theorem step_of_raise {s : State} {l : Line} {more : List Choice} (live : s.Live) (hd : s.due = .raise l :: more)
    (hl : l ≠ 2#4) : step s = .next ({ s with sched := more }.raiseLine l) := by
  rw [step_of_due live hd, chosenStep, if_neg hl]

/-- Settles O22: line 2 is refused (assumption log 12), a raise of another is one bit of the chip that has the line. -/
theorem raiseSetsThePendingBit : Obligations.RaiseSetsThePendingBit := by
  unfold Obligations.RaiseSetsThePendingBit
  intro s l more live hd
  have hlt := l.isLt
  refine ⟨fun h2 => ?line2, fun h2 hlow => ?primary, fun hhigh => ?secondary⟩
  case line2 => rw [step_of_due live hd, chosenStep, if_pos h2]
  case primary =>
    have st := step_of_raise live hd h2
    rw [State.raiseLine_of_primary _ hlow] at st
    refine ⟨_, st, rfl, fun j => s.picP.irr_raiseInput hlow j, fun hset => ?_⟩
    rw [Pic.raiseInput_of_pending (c := s.picP) hlow hset]
  case secondary =>
    have h2 : l ≠ 2#4 := by rintro rfl; exact absurd hhigh (by decide)
    have hin : l.toNat - 8 < 8 := by omega
    have st := step_of_raise live hd h2
    rw [State.raiseLine_of_secondary _ hhigh] at st
    refine ⟨_, st, rfl, fun j => s.picS.irr_raiseInput hin j, fun hset => ?_⟩
    rw [Pic.raiseInput_of_pending (c := s.picS) hin hset]

end Sys2Proof.Machine
end

section
/-! Taking an exception or a request: when a line is offered, what its acknowledge does, and the delivery with its four
faults (spec/60_exceptions.md R125, R131 to R134, R149). -/

namespace Sys2Proof.Machine

/-- A chip offers an input that is pending and not masked, while the chip is ready with nothing in service (R149). -/
theorem Pic.offers_iff (c : Pic) (j : Nat) :
    c.offers j = true ↔
      c.initStep = .ready ∧ c.irr.getLsbD j = true ∧ c.imr.getLsbD j = false ∧ c.isr = 0#8 := by
  simp [Pic.offers, and_assoc]

/-- A primary line is offered as the primary chip offers its input, except line 2 (R127, R149). -/
theorem State.offersLine_of_primary (s : State) {l : Line} (h : l.toNat < 8) :
    s.offersLine l = true ↔ l ≠ 2#4 ∧ s.picP.offers l.toNat = true := by
  rw [State.offersLine, isPrimaryLine_of_low h, if_pos rfl, inputOf_of_primary h, Bool.and_eq_true, bne_iff_ne]

/-- A secondary line is offered as the secondary chip offers its input, through input 2 of a primary chip with nothing
in service (R149). -/
theorem State.offersLine_of_secondary (s : State) {l : Line} (h : 8 ≤ l.toNat) :
    s.offersLine l = true ↔
      s.picS.offers (l.toNat - 8) = true ∧ s.picP.imr.getLsbD 2 = false ∧ s.picP.isr = 0#8 := by
  rw [State.offersLine, isPrimaryLine_of_high h, if_neg Bool.false_ne_true, inputOf_of_secondary h, Bool.and_eq_true,
    Bool.and_eq_true, Bool.not_eq_true', beq_iff_eq, and_assoc]

/-- When a line is offered, in the registers of the chips (R127, R149). -/
theorem State.offersLine_iff (s : State) (l : Line) :
    s.offersLine l = true ↔
      (l.toNat < 8 ∧ l ≠ 2#4 ∧ s.picP.initStep = .ready ∧ s.picP.irr.getLsbD l.toNat = true ∧
          s.picP.imr.getLsbD l.toNat = false ∧ s.picP.isr = 0#8) ∨
        (8 ≤ l.toNat ∧ s.picS.initStep = .ready ∧ s.picS.irr.getLsbD (l.toNat - 8) = true ∧
          s.picS.imr.getLsbD (l.toNat - 8) = false ∧ s.picS.isr = 0#8 ∧ s.picP.imr.getLsbD 2 = false ∧
          s.picP.isr = 0#8) := by
  by_cases h : l.toNat < 8
  · have hhigh : ¬8 ≤ l.toNat := by omega
    rw [s.offersLine_of_primary h, Pic.offers_iff]
    simp only [h, hhigh, true_and, false_and, or_false]
  · have hhigh : 8 ≤ l.toNat := by omega
    rw [s.offersLine_of_secondary hhigh, Pic.offers_iff]
    simp only [h, hhigh, true_and, false_and, false_or, and_assoc]

/-- The step a request entry names: a delivery after the line's acknowledge, where IF and the offer allow it (R131,
R149; assumption log 12). -/
theorem step_of_req {s : State} {l : Line} {cpu : CpuRegs} {more : List Choice} (live : s.Live)
    (hd : s.due = .req l cpu :: more) :
    step s =
      if s.intFlag && s.offersLine l then
        .next (({ s with sched := more }.ackLine l).deliver (s.lineVector l) none cpu)
      else .refused (.notEnabled (.req l cpu)) := step_of_due live hd

/-- A request that IF and the offer allow is delivered (R131, R149). -/
theorem step_of_req_allowed {s : State} {l : Line} {cpu : CpuRegs} {more : List Choice} (live : s.Live)
    (hd : s.due = .req l cpu :: more) (hi : s.intFlag = true) (ho : s.offersLine l = true) :
    step s = .next (({ s with sched := more }.ackLine l).deliver (s.lineVector l) none cpu) := by
  rw [step_of_req live hd, hi, ho]
  rfl

/-- A request that IF or the offer does not allow is refused (R131; assumption log 12). -/
theorem step_of_req_refused {s : State} {l : Line} {cpu : CpuRegs} {more : List Choice} (live : s.Live)
    (hd : s.due = .req l cpu :: more) (h : s.intFlag = false ∨ s.offersLine l = false) :
    step s = .refused (.notEnabled (.req l cpu)) := by
  have off : (s.intFlag && s.offersLine l) = false := Bool.and_eq_false_iff.mpr h
  rw [step_of_req live hd, off]
  rfl

/-- Settles O38: the offer chip by chip, and the step by what IF and the offer are; inside a delivery IF is 0. -/
theorem requestNeedsIfAndAnOffer : Obligations.RequestNeedsIfAndAnOffer := by
  unfold Obligations.RequestNeedsIfAndAnOffer
  refine fun s l => ⟨s.offersLine_iff l, fun cpu more live hd => ⟨fun hi ho => ?_, fun h => ?_, fun hm hpos => ?_⟩⟩
  · exact ⟨_, step_of_req_allowed live hd hi ho⟩
  · exact step_of_req_refused live hd h
  · exact step_of_req_refused live hd (.inl (hm.2.1 hpos))

/-- The acknowledge of a line moves its bit from pending to in service on its chip, and a secondary line's puts input 2
of the primary in service too (R149). -/
theorem State.ackLine_spec (s : State) (l : Line) :
    s.ackLine l =
      { s with
        picP :=
          if l.toNat < 8 then
            { s.picP with
              irr := s.picP.irr &&& ~~~(BitVec.twoPow 8 l.toNat)
              isr := s.picP.isr ||| BitVec.twoPow 8 l.toNat }
          else { s.picP with isr := s.picP.isr ||| BitVec.twoPow 8 2 }
        picS :=
          if l.toNat < 8 then s.picS
          else
            { s.picS with
              irr := s.picS.irr &&& ~~~(BitVec.twoPow 8 (l.toNat - 8))
              isr := s.picS.isr ||| BitVec.twoPow 8 (l.toNat - 8) } } := by
  by_cases h : l.toNat < 8
  · rw [State.ackLine, isPrimaryLine_of_low h, if_pos rfl, inputOf_of_primary h, if_pos h, if_pos h]
    rfl
  · have hhigh : 8 ≤ l.toNat := by omega
    rw [State.ackLine, isPrimaryLine_of_high hhigh, if_neg Bool.false_ne_true, inputOf_of_secondary hhigh, if_neg h,
      if_neg h]
    rfl

/-- The gate fetch through a written, present gate that leads to a trampoline (R132). -/
theorem State.gateFetch_of_gate {s : State} {v w : VectorNo} (hl : s.loaded = true) (hw : s.gateWritten v = true)
    (hp : (s.mem.load (slotAddr s.idtr.base v) 8).getLsbD 47 = true)
    (ht : trampAt s.cfg (gateAddr (s.mem.load (slotAddr s.idtr.base v) 8)) = some w) :
    s.gateFetch v = .ok (gateAddr (s.mem.load (slotAddr s.idtr.base v) 8), w) := by
  have hp' : gatePresent (s.mem.load (slotAddr s.idtr.base v) 8) = true := hp
  simp [State.gateFetch, hl, hw, hp', ht]

/-- A delivery whose gate fetch fails raises the fetch's fault (R134). -/
theorem State.deliver_of_error {s : State} {v : VectorNo} {c : FaultCode} (h : s.gateFetch v = .error c)
    (e : Option Word) (cpu : CpuRegs) : s.deliver v e cpu = s.raise c := by
  rw [State.deliver, h]

/-- A delivery whose gate leads to a trampoline enters it (R134). -/
theorem State.deliver_of_ok {s : State} {v w : VectorNo} {a : Word} (h : s.gateFetch v = .ok (a, w))
    (e : Option Word) (cpu : CpuRegs) : s.deliver v e cpu = s.trapEnter v w e cpu := by
  rw [State.deliver, h]

/-- The step an exception entry names is its delivery (R131). -/
theorem step_of_exc {s : State} {v : BitVec 5} {e : Option Word} {cpu : CpuRegs} {more : List Choice} (live : s.Live)
    (hd : s.due = .exc v e cpu :: more) :
    step s = .next ({ s with sched := more }.deliver (v.setWidth 8) e cpu) := step_of_due live hd

/-- Settles O35: the delivery is the trap entry, because every check of the gate fetch passes. -/
theorem exceptionDeliveryEntersTheTrampoline : Obligations.ExceptionDeliveryEntersTheTrampoline := by
  unfold Obligations.ExceptionDeliveryEntersTheTrampoline
  intro s v e cpu more w live hd hl hw hp ht
  have fetched := State.gateFetch_of_gate hl hw hp ht
  rw [step_of_exc live hd, State.deliver_of_ok (s := { s with sched := more }) fetched]
  rfl

/-- Settles O37: the acknowledge of the line and then the trap entry, with IF as 1 saved. -/
theorem requestDeliveryAcknowledgesTheLine : Obligations.RequestDeliveryAcknowledgesTheLine := by
  unfold Obligations.RequestDeliveryAcknowledgesTheLine
  intro s l cpu more w live hd hi ho hl hw hp ht
  have fetched : ({ s with sched := more }.ackLine l).gateFetch (s.lineVector l) = .ok (_, w) :=
    (State.gateFetch_ackLine _ l _).trans (State.gateFetch_of_gate hl hw hp ht)
  rw [step_of_req_allowed live hd hi ho, State.deliver_of_ok fetched, State.ackLine_spec, ← hi]
  rfl

/-- Settles O36: the fetch's fault is raised from the state the delivery is taken in, for a request the one after the
acknowledge. -/
theorem deliveryFaultsInOrder : Obligations.DeliveryFaultsInOrder := by
  unfold Obligations.DeliveryFaultsInOrder
  refine fun s c cpu more live => ⟨fun v e hd hfail => ?exception, fun l hd hi ho hfail => ?request⟩
  case exception =>
    have fetched := State.gateFetch_fails hfail
    rw [step_of_exc live hd, State.deliver_of_error (s := { s with sched := more }) fetched,
      State.raise_eq_of_no_fault (s := { s with sched := more }) live.2.1]
  case request =>
    have fetched : ({ s with sched := more }.ackLine l).gateFetch (s.lineVector l) = .error c :=
      (State.gateFetch_ackLine _ l _).trans (State.gateFetch_fails hfail)
    have faultless : ({ s with sched := more }.ackLine l).fault = none := by
      rw [State.ackLine_spec]
      exact live.2.1
    rw [step_of_req_allowed live hd hi ho, State.deliver_of_error fetched, State.raise_eq_of_no_fault faultless,
      State.ackLine_spec]

end Sys2Proof.Machine
end

section
/-! The dispatcher and the enable under the invariants: what a DISPATCH leaves, its history, and its client
(spec/41_dispatcher.md R86 to R92; spec/43_handler_registry.md R104, R105; spec/44_interrupt_enable.md R109). -/

namespace Sys2Proof.Machine

/-- Settles O27: outside a delivery of the running phase IF is the outermost one, so what ENABLE sets is set. -/
theorem secondEnableOnlyAddsSti : Obligations.SecondEnableOnlyAddsSti := by
  unfold Obligations.SecondEnableOnlyAddsSti
  intro s hphase henabled hr hd
  obtain ⟨hl, hm⟩ := hphase.1 hr
  have hi : s.ifsave = [] := List.length_eq_zero_iff.mp (henabled.1.1.symm.trans hd)
  have hif : s.intFlag = true := by simpa [hi] using henabled.2 hr
  rw [exec_enable_of_ready hd hl hm]
  congr 2
  · exact hr.symm
  · exact hif.symm

/-- Inside a delivery no operation touches the levels or IF: the one that does, ENABLE, faults there (R92, R107). -/
theorem ExecCase.levels {s t : State} (m : ExecCase s t) (hd : 0 < s.depth) :
    t.intFlag = s.intFlag ∧ t.ifsave = s.ifsave ∧ t.depth = s.depth := by
  cases m with
  | enable h0 => exact absurd (hd.trans_eq h0) (Nat.lt_irrefl 0)
  | acked k => rw [State.eoi_eq]; exact ⟨rfl, rfl, rfl⟩
  | invoked k h n =>
    obtain ⟨_, e⟩ | ⟨_, _, e⟩ := (s.eoi k).invoke_cases k h n <;> rw [e, State.eoi_eq] <;> exact ⟨rfl, rfl, rfl⟩
  | _ => exact ⟨rfl, rfl, rfl⟩

/-- A trampoline's DISPATCH call is the operation its interrupt number chooses, and then DISPATCH's return where no
fault was raised (R82, R86, R133). -/
theorem softwareStep_of_issue {s : State} {saved : CpuRegs} {snap : Snapshot} {rest : List Frame}
    (hf : s.frames = .tramp saved (.issue snap) :: rest) :
    softwareStep s =
      dispatchDone (exec (decodeIntNo snap.intNo) { s with frames := .tramp saved (.called snap) :: rest }) := by
  rw [softwareStep, hf]
  simp only [runWord, decode_dispatchWord]

/-- A next state of a trampoline's step is the operation's, or that with DISPATCH returned. -/
theorem step_of_issue_next {s t : State} {saved : CpuRegs} {snap : Snapshot} {rest : List Frame} (next : s.SoftwareNext)
    (hf : s.frames = .tramp saved (.issue snap) :: rest) (st : step s = .next t) :
    ∃ u, ExecCase { s.popped with frames := .tramp saved (.called snap) :: rest } u ∧
      t = if u.fault.isNone then u.dispatchReturn else u := by
  obtain ⟨hc, h0, hh, -⟩ := step_move st
  rw [step_of_software ⟨hc, h0, hh⟩ next, softwareStep_of_issue (s := s.popped) hf] at st
  obtain ⟨u, hu, ht⟩ := dispatchDone_next st
  exact ⟨u, exec_cases hu, ht⟩

/-- Settles O29: a trampoline stands inside a delivery, where IF is 0 and no operation touches the levels. -/
theorem dispatchRunsMasked : Obligations.DispatchRunsMasked := by
  unfold Obligations.DispatchRunsMasked
  intro s saved snap rest hmask next hf
  obtain ⟨_, _, _, hd, _⟩ := hmask.1.ifsave_of_tramp hf
  have hpos : 0 < s.depth := by omega
  refine ⟨hmask.2.1 hpos, fun t st => ?_⟩
  obtain ⟨u, m, rfl⟩ := step_of_issue_next next hf st
  obtain ⟨hif, hsave, hdepth⟩ := m.levels hpos
  rw [← hmask.2.1 hpos]
  split <;> exact ⟨hif, hsave, hdepth⟩

/-- The request index as a number of four bits (R87). -/
theorem requestIndex_eq_ofNat {n : Word} (hlo : 32 ≤ n.toNat) (hhi : n.toNat ≤ 47) :
    requestIndex n = BitVec.ofNat 4 (n.toNat - 32) := by
  apply BitVec.eq_of_toNat_eq
  rw [toNat_requestIndex hlo hhi, BitVec.toNat_ofNat]
  omega

/-- With a slot that holds an id the request path goes on, after its EOI sequence, to the invocation (R88). -/
theorem State.requestPath_of_registered {s : State} {n h : Word} (hk : s.lookup (requestIndex n) = h) (hh : h ≠ 0#32) :
    s.requestPath n = (s.eoi (requestIndex n)).invoke (requestIndex n) h n := by
  obtain ⟨hz, _⟩ | ⟨_, e⟩ := s.requestPath_cases n
  · exact absurd (hk.symm.trans hz) hh
  · rw [e, hk]

/-- The EOI sequence leaves the parameters, and so what CLIENT names. -/
theorem State.cfg_eoi (s : State) (k : Line) : (s.eoi k).cfg = s.cfg := by rw [State.eoi_eq]

theorem State.fault_eoi (s : State) (k : Line) : (s.eoi k).fault = s.fault := by rw [State.eoi_eq]

/-- An invocation of an id that CLIENT knows (R104). -/
theorem State.invoke_of_client {s : State} {h : Word} {kind : ClientKind} (hk : clientOf s.cfg h = some kind)
    (k : Line) (n : Word) :
    s.invoke k h n =
      { s with hist := s.hist ++ [.call k h n], frames := .client k h (firstStage kind) :: s.frames } := by
  rw [State.invoke, hk]

/-- An invocation of an id that CLIENT does not know (R105). -/
theorem State.invoke_of_unknown {s : State} {h : Word} (hk : clientOf s.cfg h = none) (k : Line) (n : Word) :
    s.invoke k h n = s.raise .unknownHandler := by
  rw [State.invoke, hk]

/-- A request whose slot names a client goes on from its EOI sequence to the CALL (R88, R104). -/
theorem State.requestPath_of_client {s : State} {n h : Word} {kind : ClientKind} (hlo : 32 ≤ n.toNat)
    (hhi : n.toNat ≤ 47) (hr : s.reg[n.toNat - 32]? = some h) (hh : h ≠ 0#32) (hkind : clientOf s.cfg h = some kind) :
    s.requestPath n =
      { s.eoi (requestIndex n) with
        hist := (s.eoi (requestIndex n)).hist ++ [.call (BitVec.ofNat 4 (n.toNat - 32)) h n]
        frames := .client (BitVec.ofNat 4 (n.toNat - 32)) h (firstStage kind) :: (s.eoi (requestIndex n)).frames } := by
  rw [State.requestPath_of_registered (State.lookup_requestIndex hlo hhi hr) hh,
    State.invoke_of_client ((congrArg (clientOf · h) (s.cfg_eoi _)).trans hkind), requestIndex_eq_ofNat hlo hhi]

/-- A request whose slot holds an id that CLIENT does not know goes on from its EOI sequence to the fault (R105). -/
theorem State.requestPath_of_unknown {s : State} {n h : Word} (hf : s.fault = none) (hlo : 32 ≤ n.toNat)
    (hhi : n.toNat ≤ 47) (hr : s.reg[n.toNat - 32]? = some h) (hh : h ≠ 0#32) (hkind : clientOf s.cfg h = none) :
    s.requestPath n =
      { s.eoi (requestIndex n) with
        fault := some .unknownHandler
        hist := (s.eoi (requestIndex n)).hist ++ [.fault .unknownHandler] } := by
  rw [State.requestPath_of_registered (State.lookup_requestIndex hlo hhi hr) hh,
    State.invoke_of_unknown ((congrArg (clientOf · h) (s.cfg_eoi _)).trans hkind),
    State.raise_eq_of_no_fault ((s.fault_eoi _).trans hf)]

/-- Settles O31: the EOI sequence of the line's half, and then the invocation of the client that CLIENT names. -/
theorem registeredHandlerIsInvoked : Obligations.RegisteredHandlerIsInvoked := by
  unfold Obligations.RegisteredHandlerIsInvoked
  refine fun s n h kind hr hh hkind => ⟨fun hlo hhi => ?primary, fun hlo hhi => ?secondary⟩
  case primary =>
    have hk := toNat_requestIndex hlo (by omega)
    rw [exec_dispatchReqPrimary, State.requestPath_of_client hlo (by omega) hr hh hkind,
      State.eoi_of_primary s (by omega), List.append_assoc]
    rfl
  case secondary =>
    have hk := toNat_requestIndex (by omega) hhi
    rw [exec_dispatchReqSecondary, State.requestPath_of_client (by omega) hhi hr hh hkind,
      State.eoi_of_secondary s (by omega), List.append_assoc]
    rfl

/-- Settles O32: the EOI sequence of the line's half, and then the fault of an unknown id. -/
theorem unknownHandlerFaultsAfterEoi : Obligations.UnknownHandlerFaultsAfterEoi := by
  unfold Obligations.UnknownHandlerFaultsAfterEoi
  refine fun s n h hf hr hh hkind => ⟨fun hlo hhi => ?primary, fun hlo hhi => ?secondary⟩
  case primary =>
    have hk := toNat_requestIndex hlo (by omega)
    rw [exec_dispatchReqPrimary, State.requestPath_of_unknown hf hlo (by omega) hr hh hkind,
      State.eoi_of_primary s (by omega), List.append_assoc]
    rfl
  case secondary =>
    have hk := toNat_requestIndex (by omega) hhi
    rw [exec_dispatchReqSecondary, State.requestPath_of_unknown hf (by omega) hhi hr hh hkind,
      State.eoi_of_secondary s (by omega), List.append_assoc]
    rfl

/-- The request path writes no port after its EOI sequence (R88, R89). -/
theorem State.hist_requestPath (s : State) (n : Word) :
    ∃ rest, (s.requestPath n).hist = (s.eoi (requestIndex n)).hist ++ rest ∧ ∀ p b, Event.pw p b ∉ rest := by
  obtain ⟨_, e⟩ | ⟨_, e⟩ := s.requestPath_cases n <;> rw [e]
  · exact ⟨[], (List.append_nil _).symm, fun _ _ => List.not_mem_nil⟩
  · obtain ⟨_, e⟩ | ⟨_, _, e⟩ := State.invoke_cases (s.eoi (requestIndex n)) (requestIndex n) _ n <;> rw [e]
    · exact ⟨_, rfl, by simp⟩
    · exact ⟨_, rfl, by simp⟩

/-- Settles O33: the EOI sequence of the line's half comes first, and nothing after it is a port write. -/
theorem acknowledgeComesBeforeTheCall : Obligations.AcknowledgeComesBeforeTheCall := by
  unfold Obligations.AcknowledgeComesBeforeTheCall
  intro s t n
  obtain ⟨rest, hist, quiet⟩ := s.hist_requestPath n
  refine ⟨fun hlo hhi ht => ?primary, fun hlo hhi ht => ?secondary⟩
  case primary =>
    have hk := toNat_requestIndex hlo (by omega)
    rw [exec_dispatchReqPrimary] at ht
    cases ht
    exact ⟨rest, by rw [hist, State.eoi_of_primary s (by omega)]; simp, quiet⟩
  case secondary =>
    have hk := toNat_requestIndex (by omega) hhi
    rw [exec_dispatchReqSecondary] at ht
    cases ht
    exact ⟨rest, by rw [hist, State.eoi_of_secondary s (by omega)]; simp, quiet⟩

/-- Settles O7: an operation that raised no fault stands on the open call or under a new client, and DISPATCH's return
closes the call in the first case only (assumption logs 6 and 20). -/
theorem stepRunsTrampolineDispatch : Obligations.StepRunsTrampolineDispatch := by
  unfold Obligations.StepRunsTrampolineDispatch
  intro s t saved snap rest i live next hf hi ht
  rw [decode_dispatchWord] at hi
  cases hi
  rw [step_of_software live next, softwareStep_of_issue (s := s.popped) hf, ht, dispatchDone]
  cases hn : t.fault with
  | some c => simp
  | none =>
    obtain hframes | ⟨k, h, g, hframes⟩ := (exec_cases ht).frames
    · simp [State.dispatchReturn, hn, hframes, endDispatch]
    · have opened : t.dispatchReturn = t := by rw [State.dispatchReturn, hframes, endDispatch, ← hframes]
      simp [opened, hframes]

/-- What one step may do to the snapshots and to the values to be restored (R93, R133, R136): nothing, one delivery on
top, one DISPATCH returned, or one trampoline returned. -/
def State.SnapStep (s t : State) : Prop :=
  (openSnaps t.frames = openSnaps s.frames ∧ savedRegs t.frames = savedRegs s.frames) ∨
    (∃ (v w : VectorNo) (e : Option Word) (cpu : CpuRegs),
      t.frames = .tramp cpu (.issue { intNo := w.setWidth 32, errCode := e, cpu := cpu }) :: s.frames ∧
        t.hist = s.hist ++ [.dlv v w]) ∨
    (∃ (saved : CpuRegs) (snap : Snapshot) (rest : List Frame),
      (s.frames = .tramp saved (.issue snap) :: rest ∨ s.frames = .tramp saved (.called snap) :: rest ∨
        ∃ k h stage, s.frames = .client k h stage :: .tramp saved (.called snap) :: rest) ∧
        t.frames = .tramp saved .ret :: rest) ∨
    ∃ saved rest, s.frames = .tramp saved .ret :: rest ∧ t.frames = rest ∧ t.hist = s.hist ++ [.iret]

theorem State.SnapStep.of_frames {s t : State} (h : t.frames = s.frames) : s.SnapStep t := by
  refine .inl ⟨?_, ?_⟩ <;> rw [h]

/-- Which client stands on a list of frames, and how far it is, changes no snapshot. -/
theorem State.SnapStep.of_client {s t : State} {k k' : Line} {h h' : Word} {g g' : ClientStage} {rest : List Frame}
    (hs : s.frames = .client k h g :: rest) (ht : t.frames = .client k' h' g' :: rest) : s.SnapStep t := by
  refine .inl ⟨?_, ?_⟩ <;> rw [hs, ht] <;> rfl

theorem State.SnapStep.deliver (s : State) (v : VectorNo) (e : Option Word) (cpu : CpuRegs) :
    s.SnapStep (s.deliver v e cpu) := by
  obtain ⟨c, _, r⟩ | ⟨_, w, _, r⟩ := s.deliver_cases v e cpu <;> rw [r]
  · exact .of_frames rfl
  · exact .inr (.inl ⟨v, w, e, cpu, rfl, rfl⟩)

/-- A trampoline's call keeps its snapshot while it is open, under a new client or at a fault; with no fault and no
client DISPATCH has returned (R86, R93). -/
theorem State.SnapStep.dispatch {s u : State} {saved : CpuRegs} {snap : Snapshot} {rest : List Frame}
    (hf : s.frames = .tramp saved (.issue snap) :: rest)
    (m : ExecCase { s with frames := .tramp saved (.called snap) :: rest } u) :
    s.SnapStep (if u.fault.isNone then u.dispatchReturn else u) := by
  obtain hu | ⟨k, h, g, hu⟩ := m.frames
  · split
    · exact .inr (.inr (.inl ⟨saved, snap, rest, .inl hf, by rw [State.dispatchReturn_frames, hu]; rfl⟩))
    · refine .inl ⟨?_, ?_⟩ <;> rw [hf, hu] <;> rfl
  · have hsame : (if u.fault.isNone then u.dispatchReturn else u).frames = u.frames := by
      split
      · rw [State.dispatchReturn_frames, hu]; rfl
      · rfl
    refine .inl ⟨?_, ?_⟩ <;> rw [hsame, hf, hu] <;> rfl

theorem State.frames_setStage {s : State} {f : Frame} {rest : List Frame} (hf : s.frames = f :: rest) (k : Line)
    (h : Word) (g : ClientStage) : (s.setStage k h g).frames = .client k h g :: rest := by
  rw [State.setStage_frames, hf, List.tail_cons]

/-- A client's return closes the call below it; its other steps move it alone (R104). -/
theorem State.SnapStep.clientRun {s : State} {k : Line} {h : Word} {g : ClientStage} {rest : List Frame}
    (hf : s.frames = .client k h g :: rest) : s.SnapStep (s.clientRun k h g) := by
  have returned : s.SnapStep (s.clientReturn k) := by
    have ht : (s.clientReturn k).frames = endDispatch rest := by rw [State.clientReturn_frames, hf]; rfl
    have same (e : endDispatch rest = rest) : s.SnapStep (s.clientReturn k) := by
      refine .inl ⟨?_, ?_⟩ <;> rw [ht, e, hf] <;> rfl
    cases rest with
    | nil => exact same rfl
    | cons f below =>
      cases f with
      | client => exact same rfl
      | tramp saved g' =>
        cases g' with
        | issue => exact same rfl
        | ret => exact same rfl
        | called snap => exact .inr (.inr (.inl ⟨saved, snap, below, .inr (.inr ⟨k, h, g, hf⟩), ht⟩))
  cases g with
  | timerStart => exact .of_client hf (State.frames_setStage (s := s.timerTick) hf k h _)
  | kbdStart => exact .of_client hf (State.frames_setStage (s := s.portRead _) hf k h _)
  | free ports => exact returned
  | leave => exact returned

theorem Move.snapStep {s t : State} (m : Move s t) : s.SnapStep t := by
  cases m with
  | exec _ _ _ _ _ _ ht _ => exact .of_frames ht
  | hostExec u _ _ hu _ => exact .of_frames (u.hostAdvance_frames.trans hu)
  | hostPrint t _ _ => exact .of_frames (State.hostAdvance_frames _)
  | timerInit f _ _ => exact .of_frames ((State.hostAdvance_frames _).trans (s.frames_timerInit f))
  | kbdInit _ _ => exact .of_frames ((State.hostAdvance_frames _).trans s.frames_kbdInit)
  | pendingWrite _ _ _ _ => exact .of_frames (State.hostAdvance_frames _)
  | dispatch saved snap rest u hf hu => exact .dispatch hf (exec_cases hu)
  | dispatchReturn saved snap rest hf =>
    exact .inr (.inr (.inl ⟨saved, snap, rest, .inr (.inl hf), by rw [State.dispatchReturn_frames, hf]; rfl⟩))
  | trapReturn saved rest hf =>
    exact .inr (.inr (.inr ⟨saved, rest, hf, by rw [State.trapReturn_frames, hf]; rfl, rfl⟩))
  | client k h g rest hf => exact .clientRun hf
  | clientRead => exact .of_frames rfl
  | clientWrite => exact .of_frames rfl
  | clientPrint => exact .of_frames rfl
  | clientOwn => exact .of_frames rfl
  | raiseLine l _ => exact .of_frames (by rw [s.raiseLine_only_pics l])
  | exception v e cpu => exact .deliver s _ _ _
  | request l cpu _ _ =>
    have delivered := State.SnapStep.deliver (s.ackLine l) (s.lineVector l) none cpu
    unfold State.SnapStep at delivered ⊢
    rw [s.ackLine_only_pics l] at delivered ⊢
    exact delivered

/-- Settles O40, move by move: the schedule's entry taken changes neither frames nor history. -/
theorem openSnapshotsStayAsBuilt : Obligations.OpenSnapshotsStayAsBuilt := by
  unfold Obligations.OpenSnapshotsStayAsBuilt
  intro s t st
  obtain ⟨-, -, -, m⟩ := step_move st
  exact m.snapStep

end Sys2Proof.Machine
end

section
/-! The host: the step of its next item, the end of a run, and the clients' inits (spec/10_state.md R17, R29, R30;
spec/45_boundary_clients.md R112, R117, R122; spec/70_reset_and_hazards.md R168). -/

namespace Sys2Proof.Machine

/-- The host with no port write due takes its next item (R17). -/
theorem hostStep_of_item {s : State} {item : HostItem} (hp : s.hostPending = [])
    (hi : s.prog[s.hostIndex]? = some item) : hostStep s = hostDone (runItem item s) := by
  simp only [hostStep, hp, hi]

/-- The host with a port write due makes it (R112; assumption log 7). -/
theorem hostStep_of_pending {s : State} {w : PortNum × Byte} {ws : List (PortNum × Byte)}
    (hp : s.hostPending = w :: ws) :
    hostStep s = .next (({ s with hostPending := ws }.portWrite w.1 w.2).hostAdvance) := by
  simp only [hostStep, hp]

/-- The host at the end of its list has no step (R17; assumption log 9). -/
theorem hostStep_of_end {s : State} (hp : s.hostPending = []) (hi : s.prog.length ≤ s.hostIndex) :
    hostStep s = .fault .idle := by
  simp only [hostStep, hp, List.getElem?_eq_none hi]

/-- With nothing open the software's step is the host's (R12). -/
theorem softwareStep_of_host {s : State} (hf : s.frames = []) : softwareStep s = hostStep s := by
  rw [softwareStep, hf]

/-- Where the software moves next, nothing is open and no port write is due, the step is the host's next item. -/
theorem step_of_item {s : State} {item : HostItem} (live : s.Live) (next : s.SoftwareNext) (hf : s.frames = [])
    (hp : s.hostPending = []) (hi : s.prog[s.hostIndex]? = some item) :
    step s = hostDone (runItem item s.popped) := by
  rw [step_of_software live next, softwareStep_of_host (s := s.popped) hf, hostStep_of_item (s := s.popped) hp hi]

/-- With no port write due the index advances exactly where no fault was raised (assumption log 10). -/
theorem State.hostAdvance_of_no_pending {t : State} (hp : t.hostPending = []) :
    t.hostAdvance = if t.fault = none then { t with hostIndex := t.hostIndex + 1 } else t := by
  rw [State.hostAdvance, hp]
  cases t.fault <;> rfl

/-- While a port write is due the index stays (assumption log 7). -/
theorem State.hostAdvance_of_pending {t : State} {w : PortNum × Byte} {ws : List (PortNum × Byte)}
    (hp : t.hostPending = w :: ws) : t.hostAdvance = t := by
  rw [State.hostAdvance, hp, List.isEmpty_cons, Bool.and_false, if_neg Bool.false_ne_true]

/-- A raised fault keeps the host index (assumption log 10). -/
theorem State.hostAdvance_raise (s : State) (c : FaultCode) : (s.raise c).hostAdvance = s.raise c := by
  cases h : s.fault <;> simp [State.hostAdvance, h]

/-- Settles O6: the item's word decodes and runs, or raises; no operation makes a port write due. -/
theorem stepRunsHostWord : Obligations.StepRunsHostWord := by
  unfold Obligations.StepRunsHostWord
  refine fun s cw live next hf hp hi => ⟨fun i t hd ht => ?decodes, fun hd => ?illegal⟩
  case decodes =>
    have hpt : t.hostPending = [] := (exec_hostPending ht).trans hp
    rw [step_of_item live next hf hp hi, runItem, runWord, hd]
    simp only [ht, hostDone, State.hostAdvance_of_no_pending hpt]
  case illegal =>
    rw [step_of_item live next hf hp hi, runItem, runWord_of_decode_eq_none hd, hostDone, State.hostAdvance_raise,
      State.raise_eq_of_no_fault (s := s.popped) live.2.1]
    rfl

/-- A client acts only where one is open (R106). -/
theorem clientAct_of_no_frames {s : State} (hf : s.frames = []) (a : ClientAct) (c : Choice) :
    clientAct a s c = .refused (.notEnabled c) := by
  rw [clientAct, hf]

/-- The oldest entry due is the software's, or stands in the schedule. -/
theorem State.due_headD_mem (s : State) : s.due.headD .run = .run ∨ s.due.headD .run ∈ s.sched ++ s.cycle := by
  cases hs : s.sched with
  | cons c cs => rw [State.due_cons hs]; simp
  | nil =>
    rw [State.due_nil hs]
    cases s.cycle <;> simp

/-- A live state whose software is done and whose schedule holds no event of the environment has no next state
(R168). -/
theorem step_of_final {s : State} (live : s.Live) (done : s.SoftwareDone)
    (hsched : ∀ c ∈ s.sched ++ s.cycle, c.isEnvironment = false) (t : State) : step s ≠ .next t := by
  obtain ⟨hf, hp, hi⟩ := done
  have hc : (s.due.headD .run).isEnvironment = false := by
    obtain h | h := s.due_headD_mem
    · rw [h]; rfl
    · exact hsched _ h
  rw [step_of_live live, agentStep]
  cases he : s.due.headD .run with
  | run => simp [chosenStep, softwareStep_of_host (s := s.popped) hf, hostStep_of_end (s := s.popped) hp hi]
  | act a => simp [chosenStep, clientAct_of_no_frames (s := s.popped) hf]
  | raise l => rw [he] at hc; cases hc
  | exc v e cpu => rw [he] at hc; cases hc
  | req l cpu => rw [he] at hc; cases hc

/-- A configuration whose table would wrap has no run (R40). -/
theorem step_of_bad_configuration {s : State} (h : idtFits s.cfg = false) : step s = .refused .badConfiguration := by
  rw [step, if_pos h]

/-- A faulted state has no further step (R29). -/
theorem step_of_faulted {s : State} {c : FaultCode} (hc : idtFits s.cfg = true) (h : s.fault = some c) :
    step s = .fault (.sticky c) := by
  simp [step, hc, h]

/-- A halted state has no further step (R30). -/
theorem step_of_halted {s : State} (hc : idtFits s.cfg = true) (hf : s.fault = none) (h : s.halted = true) :
    step s = .fault .halted := by
  simp [step, hc, hf, h]

/-- A step that answers comes from a live state. -/
theorem live_of_step {s t : State} (st : step s = .next t) : s.Live := by
  obtain ⟨hc, hf, hh, -⟩ := step_move st
  exact ⟨hc, hf, hh⟩

/-- Settles O9: a step that answers comes from a configured, faultless machine that is not halted, and of those a final
one has only software that is done. -/
theorem stoppedStatesHaveNoStep : Obligations.StoppedStatesHaveNoStep := by
  unfold Obligations.StoppedStatesHaveNoStep
  refine fun s => ⟨fun c => ⟨fun h => State.raise_eq_of_no_fault h c, fun d h => ?sticks⟩, fun d h => ?faulted,
    step_of_bad_configuration, fun c => step_of_faulted, step_of_halted, fun hfinal => ⟨fun t st => ?final, ?idle⟩⟩
  case sticks => rw [State.raise, h, Option.some_or, ← h]
  case faulted =>
    exact ⟨fun hfinal => absurd (hfinal.1.symm.trans h) (by simp), fun t st =>
      absurd ((live_of_step st).2.1.symm.trans h) (by simp)⟩
  case final =>
    have live := live_of_step st
    obtain hh | ⟨done, _, hsched⟩ := hfinal.2
    · exact absurd (live.2.2.symm.trans hh) Bool.false_ne_true
    · exact step_of_final live done hsched t st
  case idle =>
    intro hc hh next
    obtain hh' | ⟨⟨hf, hp, hi⟩, _⟩ := hfinal.2
    · exact absurd (hh.symm.trans hh') Bool.false_ne_true
    · rw [step_of_software ⟨hc, hfinal.1, hh⟩ next, softwareStep_of_host (s := s.popped) hf,
        hostStep_of_end (s := s.popped) hp hi]

/-- TIMER_INIT of frequency 0 (R112). -/
theorem State.timerInit_zero (s : State) : s.timerInit 0#32 = s.raise .timerDivideByZero := if_pos rfl

/-- TIMER_INIT of another frequency in the running phase (R122). -/
theorem State.timerInit_of_running {s : State} {f : Word} (hf : f ≠ 0#32) (hr : s.running = true) :
    s.timerInit f = s.raise .lateRegister := by
  obtain e | e | ⟨hn, _⟩ | ⟨hn, _⟩ := s.timerInit_cases f
  · rw [State.timerInit, if_neg hf, State.registerHandler_of_running (by decide) hr]
    exact if_neg (by simp)
  · exact e
  · exact absurd (hr.symm.trans hn) Bool.true_eq_false.mp
  · exact absurd (hr.symm.trans hn) Bool.true_eq_false.mp

/-- TIMER_INIT of another frequency before ENABLE: the registration, and three port writes are due (R112). -/
theorem State.timerInit_of_allowed {s : State} {f : Word} (hf : f ≠ 0#32) (hr : s.running = false)
    (h0 : s.fault = none) :
    s.timerInit f = { s.setReg 0 s.cfg.timerH with hostPending := timerWrites s.cfg f } := by
  rw [State.timerInit, if_neg hf, State.registerHandler_of_allowed (by decide) hr]
  exact if_pos (by simp [h0])

/-- KBD_INIT in the running phase (R122). -/
theorem State.kbdInit_of_running {s : State} (hr : s.running = true) : s.kbdInit = s.raise .lateRegister :=
  State.registerHandler_of_running (by decide) hr s.cfg.kbdH

/-- KBD_INIT before ENABLE (R117). -/
theorem State.kbdInit_of_allowed {s : State} (hr : s.running = false) : s.kbdInit = s.setReg 1 s.cfg.kbdH :=
  State.registerHandler_of_allowed (i := 1#8) (by decide) hr s.cfg.kbdH

/-- An item that raises keeps the host index (R17; assumption log 10). -/
theorem step_of_raising_item {s : State} {item : HostItem} {c : FaultCode} (live : s.Live) (next : s.SoftwareNext)
    (hf : s.frames = []) (hp : s.hostPending = []) (hi : s.prog[s.hostIndex]? = some item)
    (hr : runItem item s.popped = .next (s.popped.raise c)) :
    step s = .next { s.popped with fault := some c, hist := s.hist ++ [.fault c] } := by
  rw [step_of_item live next hf hp hi, hr, hostDone, State.hostAdvance_raise,
    State.raise_eq_of_no_fault (s := s.popped) live.2.1]
  rfl

/-- Settles O44: each init raises its fault, or the keyboard's is one registration. -/
theorem clientInitsFaultOrRegister : Obligations.ClientInitsFaultOrRegister := by
  unfold Obligations.ClientInitsFaultOrRegister
  refine fun s item live next hf hp hi => ⟨fun e => ?zero, fun e hr => ?late, fun e hr => ?registers⟩
  case zero =>
    exact step_of_raising_item live next hf hp hi (by rw [e, runItem, State.timerInit_zero])
  case late =>
    refine step_of_raising_item live next hf hp hi ?_
    obtain rfl | ⟨f, hf0, rfl⟩ := e
    · rw [runItem, State.kbdInit_of_running (s := s.popped) hr]
    · rw [runItem, State.timerInit_of_running (s := s.popped) hf0 hr]
  case registers =>
    rw [step_of_item live next hf hp hi, e, runItem, State.kbdInit_of_allowed (s := s.popped) hr, hostDone,
      State.hostAdvance_of_no_pending (t := s.popped.setReg 1 s.popped.cfg.kbdH) hp]
    exact congrArg Host.Outcome.next (if_pos live.2.1)

/-- With the schedule list `c` before the repeating entries `cycle`, the software moves, and leaves the list `c'`. -/
def SoftwareTakes (cycle c c' : List Choice) : Prop :=
  ∀ t : State, t.Live → t.sched = c → t.cycle = cycle → step t = softwareStep { t with sched := c' }

theorem softwareTakes_run (cycle cs : List Choice) : SoftwareTakes cycle (.run :: cs) cs :=
  fun _ live hs _ => step_of_due live (State.due_cons hs)

theorem softwareTakes_nothing : SoftwareTakes [] [] [] := by
  intro t live hs hc
  have hd : t.due = [] := (State.due_nil hs).trans hc
  have next : t.SoftwareNext := by rw [State.SoftwareNext, hd]; rfl
  rw [step_of_software live next, State.popped, hd, List.tail_nil]

/-- A port write of the host that is not the last leaves the index; the PIT has no PIC port (R112). -/
theorem step_of_pending {s : State} {p : PortNum} {b : Byte} {ws : List (PortNum × Byte)} {cycle c c' : List Choice}
    (takes : SoftwareTakes cycle c c') (live : s.Live) (hs : s.sched = c) (hc : s.cycle = cycle) (hf : s.frames = [])
    (hp : s.hostPending = (p, b) :: ws) (hoff : isPicPort p = false) :
    step s =
      .next
        { s with
          sched := c'
          hostPending := ws
          hist := s.hist ++ [.pw p b]
          hostIndex := if ws = [] then s.hostIndex + 1 else s.hostIndex } := by
  rw [takes s live hs hc, softwareStep_of_host (s := { s with sched := c' }) hf,
    hostStep_of_pending (s := { s with sched := c' }) hp, State.portWrite_of_off_pic hoff, State.hostAdvance]
  cases ws <;> simp [live.2.1]

/-- TIMER_INIT's four steps, from the schedules the software moves in (R112; assumption log 7). -/
theorem run_timerInit {s : State} {f : Word} {c₁ c₂ c₃ c₄ : List Choice} (live : s.Live)
    (first : step s = softwareStep { s with sched := c₁ }) (second : SoftwareTakes s.cycle c₁ c₂)
    (third : SoftwareTakes s.cycle c₂ c₃) (fourth : SoftwareTakes s.cycle c₃ c₄) (hf : s.frames = [])
    (hp : s.hostPending = []) (hi : s.prog[s.hostIndex]? = some (.timerInit f)) (hf0 : f ≠ 0#32)
    (hr : s.running = false) :
    core.run 4 s =
      .next
        { s with
          sched := c₄
          reg := s.reg.set 0 s.cfg.timerH
          hostIndex := s.hostIndex + 1
          hist := s.hist ++
            [.pw 0x43#16 s.cfg.pitCmd, .pw 0x40#16 (BitVec.ofNat 8 (1193180 / f.toNat)),
              .pw 0x40#16 (BitVec.ofNat 8 (1193180 / f.toNat / 256))] } := by
  have registers : step s = .next
      { s with
        sched := c₁
        reg := s.reg.set 0 s.cfg.timerH
        hostPending := timerWrites s.cfg f } := by
    rw [first, softwareStep_of_host (s := { s with sched := c₁ }) hf,
      hostStep_of_item (s := { s with sched := c₁ }) hp hi, runItem,
      State.timerInit_of_allowed (s := { s with sched := c₁ }) hf0 hr live.2.1, hostDone,
      State.hostAdvance_of_pending rfl]
    rfl
  refine Eq.trans (core_run_succ 3 registers) ?_
  refine Eq.trans (core_run_succ 2 (step_of_pending second live rfl rfl hf rfl (by decide))) ?_
  refine Eq.trans (core_run_succ 1 (step_of_pending third live rfl rfl hf rfl (by decide))) ?_
  refine Eq.trans (core_run_succ 0 (step_of_pending fourth live rfl rfl hf rfl (by decide))) ?_
  rw [hp, List.append_assoc, List.append_assoc]
  rfl

/-- Settles O43, where the schedule names the software four times and where it is used up. -/
theorem timerInitProgramsThePit : Obligations.TimerInitProgramsThePit := by
  unfold Obligations.TimerInitProgramsThePit
  intro s f more live hd hf hp hi hf0 hr
  obtain hd | ⟨hd, rfl⟩ := hd
  · exact run_timerInit live (step_of_due live hd) (softwareTakes_run _ _) (softwareTakes_run _ _)
      (softwareTakes_run _ _) hf hp hi hf0 hr
  · have hs : s.sched = [] := by
      cases hs : s.sched with
      | nil => rfl
      | cons c cs => rw [State.due_cons hs] at hd; cases hd
    have hc : s.cycle = [] := (State.due_nil hs).symm.trans hd
    have idle : SoftwareTakes s.cycle [] [] := hc ▸ softwareTakes_nothing
    exact run_timerInit live (idle s live hs rfl) idle idle idle hf hp hi hf0 hr

end Sys2Proof.Machine
end

section
/-! The clients: what a free client may choose, the keyboard callback, the return, and what a client never touches
(spec/43_handler_registry.md R104, R106; spec/45_boundary_clients.md R111 to R119). -/

namespace Sys2Proof.Machine

/-- Settles O8: a client's command goes through the host port under its normal rule. -/
theorem stepRunsClientHostCommand : Obligations.StepRunsClientHostCommand := by
  unfold Obligations.StepRunsClientHostCommand
  intro s k h ports rest cw more live hf hd
  have runs : step s = runWord .host cw s.popped := by
    rw [step_of_act live hd, ← State.popped_due hd, clientAct_host (s := s.popped) hf]
  refine ⟨fun i hi => ?_, fun hi => ?_⟩
  · rw [runs, runWord, hi]
  · rw [runs, runWord_of_decode_eq_none hi, State.raise_eq_of_no_fault (s := s.popped) live.2.1]
    rfl

/-- No operation writes the tick counter (R113). -/
theorem ExecCase.tick {s t : State} (m : ExecCase s t) : t.tick = s.tick := by
  cases m with
  | acked k => rw [State.eoi_eq]
  | invoked k x n =>
    rw [State.eoi_eq]
    obtain ⟨_, e⟩ | ⟨_, _, e⟩ := State.invoke_cases _ k x n <;> rw [e]
    rfl
  | _ => rfl

theorem State.tick_hostAdvance (s : State) : s.hostAdvance.tick = s.tick := by
  obtain ⟨n, e⟩ := s.hostAdvance_eq
  rw [e]

theorem State.tick_deliver (s : State) (v : VectorNo) (e : Option Word) (cpu : CpuRegs) :
    (s.deliver v e cpu).tick = s.tick := by
  obtain ⟨_, _, r⟩ | ⟨_, _, _, r⟩ := s.deliver_cases v e cpu <;> rw [r] <;> rfl

theorem State.tick_ackLine (s : State) (l : Line) : (s.ackLine l).tick = s.tick := by rw [s.ackLine_only_pics l]

theorem State.tick_raiseLine (s : State) (l : Line) : (s.raiseLine l).tick = s.tick := by rw [s.raiseLine_only_pics l]

/-- A move leaves the tick counter, or is the timer callback's one step (R113). -/
theorem Move.tick {s t : State} (m : Move s t) :
    t.tick = s.tick ∨
      ∃ k h rest, s.frames = .client k h .timerStart :: rest ∧
        t = { s with tick := s.tick + 1#32, frames := .client k h .leave :: rest } := by
  cases m with
  | exec _ _ _ _ _ _ _ m => exact .inl m.tick
  | hostExec u _ _ _ m => exact .inl (u.tick_hostAdvance.trans m.tick)
  | hostPrint _ _ _ => exact .inl (State.tick_hostAdvance _)
  | timerInit f _ _ =>
    refine .inl ((State.tick_hostAdvance _).trans ?_)
    obtain e | e | ⟨_, _, e⟩ | ⟨_, _, e⟩ := s.timerInit_cases f <;> rw [e] <;> rfl
  | kbdInit _ _ =>
    refine .inl ((State.tick_hostAdvance _).trans ?_)
    obtain e | ⟨_, e⟩ := s.kbdInit_cases <;> rw [e] <;> rfl
  | pendingWrite _ _ _ _ => exact .inl (State.tick_hostAdvance _)
  | dispatch saved snap rest u _ hu =>
    have hu' := (exec_cases hu).tick
    exact .inl (by split <;> exact hu')
  | client k h g rest hf =>
    cases g with
    | timerStart => exact .inr ⟨k, h, rest, hf, State.clientRun_timerStart hf⟩
    | _ => exact .inl rfl
  | raiseLine l _ => exact .inl (s.tick_raiseLine l)
  | exception v e cpu => exact .inl (s.tick_deliver _ _ _)
  | request l cpu _ _ => exact .inl (((s.ackLine l).tick_deliver _ _ _).trans (s.tick_ackLine l))
  | _ => exact .inl rfl

/-- No event of the environment writes the tick counter (R113). -/
theorem tick_of_environment {c : Choice} {s t : State} (hc : c.isEnvironment = true) (h : chosenStep c s = .next t) :
    t.tick = s.tick := by
  cases c with
  | run => cases hc
  | act a => cases hc
  | raise l =>
    simp only [chosenStep] at h
    split_ifs at h
    cases h
    exact s.tick_raiseLine l
  | exc v e cpu => cases h; exact s.tick_deliver _ _ _
  | req l cpu =>
    simp only [chosenStep] at h
    split_ifs at h
    cases h
    exact ((s.ackLine l).tick_deliver _ _ _).trans (s.tick_ackLine l)

/-- Only a free client takes a step the schedule names for it (R106, R111). -/
theorem free_of_clientAct {a : ClientAct} {s t : State} {c : Choice} (h : clientAct a s c = .next t) :
    ∃ k x ports rest, s.frames = .client k x (.free ports) :: rest := by
  unfold clientAct at h
  split at h
  · exact ⟨_, _, _, _, by assumption⟩
  · cases h

/-- Settles O46: only a client's own step moves the counter, and with the timer callback newest the schedule's entry is
the software's, or an event of the environment, which leaves the counter. -/
theorem onlyTheTimerCallbackCounts : Obligations.OnlyTheTimerCallbackCounts := by
  unfold Obligations.OnlyTheTimerCallbackCounts
  intro s t st
  obtain htick | ⟨k, h, rest, hf, ht⟩ := (step_move st).2.2.2.tick
  · exact .inl htick
  · rw [step_of_live (live_of_step st), agentStep] at st
    cases hd : s.due.headD .run with
    | run => exact .inr ⟨hd, k, h, rest, hf, ht⟩
    | act a =>
      rw [hd] at st
      obtain ⟨_, _, _, _, hfree⟩ := free_of_clientAct (s := s.popped) st
      rw [hf] at hfree
      cases hfree
    | raise l => exact .inl (tick_of_environment (s := s.popped) rfl (hd ▸ st))
    | exc v e cpu => exact .inl (tick_of_environment (s := s.popped) rfl (hd ▸ st))
    | req l cpu => exact .inl (tick_of_environment (s := s.popped) rfl (hd ▸ st))

/-- With one byte queued a port read takes it (R11; assumption log 13). -/
theorem State.portRead_of_queued {s : State} {b : Byte} {bs : List Byte} (h : s.portIn = b :: bs) (p : PortNum) :
    s.portRead p = { s with portIn := bs, hist := s.hist ++ [.pr p b] } := by
  simp [State.portRead, State.drawByte, h]

/-- With no byte queued a port read draws the free one (assumption log 13). -/
theorem State.portRead_of_empty {s : State} (h : s.portIn = []) (p : PortNum) :
    s.portRead p =
      { s with draws := s.draws + 1, hist := s.hist ++ [.pr p (Config.freeByte s.draws)] } := by
  simp [State.portRead, State.drawByte, h]

/-- Settles O47, by whether a byte is queued. -/
theorem keyboardCallbackReadsTheScancode : Obligations.KeyboardCallbackReadsTheScancode := by
  unfold Obligations.KeyboardCallbackReadsTheScancode
  intro s k h rest live next hf
  have runs := step_of_client live next hf
  rw [State.clientRun, State.kbdRead] at runs
  refine ⟨fun b more hin => ?queued, fun hin => ?free⟩
  case queued =>
    have hb : s.popped.drawByte = b := by rw [State.drawByte, State.popped_portIn, hin, List.headD_cons]
    rw [runs, State.portRead_of_queued (s := s.popped) hin, hb, State.setStage]
    simp only [State.popped_frames, hf, List.tail_cons]
    rfl
  case free =>
    have hb : s.popped.drawByte = Config.freeByte s.draws := by
      rw [State.drawByte, State.popped_portIn, hin, List.headD_nil, State.popped_draws]
    rw [runs, State.portRead_of_empty (s := s.popped) hin, hb, State.setStage]
    simp only [State.popped_frames, hf, List.tail_cons]
    rfl

/-- Settles O48: the two stages whose run is the return; the frame below is the call that DISPATCH returns from. -/
theorem clientReturnClosesTheInvocation : Obligations.ClientReturnClosesTheInvocation := by
  unfold Obligations.ClientReturnClosesTheInvocation
  intro s k h stage saved snap rest live next hf hstage
  have returns : s.popped.clientRun k h stage = s.popped.clientReturn k := by
    obtain rfl | ⟨ports, rfl⟩ := hstage <;> rfl
  rw [step_of_client live next hf, returns, State.clientReturn, State.popped_frames, hf]
  rfl

/-- A read of a port of the client's own (R111). -/
theorem step_of_portRead {s : State} {k : Line} {h : Word} {ports : List PortNum} {rest : List Frame} {p : PortNum}
    {more : List Choice} (live : s.Live) (hf : s.frames = .client k h (.free ports) :: rest)
    (hd : s.due = .act (.portRead p) :: more) (hp : p ∈ ports) :
    step s = .next ({ s with sched := more }.portRead p) := by
  rw [step_of_act live hd, clientAct_portRead (s := { s with sched := more }) hf, if_pos hp]

/-- A write of a port of the client's own that no PIC has (R38, R111). -/
theorem step_of_portWrite_off_pic {s : State} {k : Line} {h : Word} {ports : List PortNum} {rest : List Frame}
    {p : PortNum} {b : Byte} {more : List Choice} (live : s.Live)
    (hf : s.frames = .client k h (.free ports) :: rest) (hd : s.due = .act (.portWrite p b) :: more) (hp : p ∈ ports)
    (hoff : isPicPort p = false) : step s = .next { s with sched := more, hist := s.hist ++ [.pw p b] } := by
  obtain ⟨hPCmd, -, hSCmd, -⟩ := (isPicPort_eq_false_iff p).mp hoff
  have noCommand : ¬((p = Config.picPCmd ∨ p = Config.picSCmd) ∧ picCommandCovered b = false) :=
    fun hc => hc.1.elim hPCmd hSCmd
  rw [step_of_act live hd, clientAct_portWrite (s := { s with sched := more }) hf, if_pos hp, if_neg noCommand,
    State.portWrite_of_off_pic hoff]

/-- A port that is not the client's own is no step of it (R111; assumption log 12). -/
theorem step_of_foreign_port {s : State} {k : Line} {h : Word} {ports : List PortNum} {rest : List Frame} {p : PortNum}
    {a : ClientAct} {more : List Choice} (live : s.Live) (hf : s.frames = .client k h (.free ports) :: rest)
    (hd : s.due = .act a :: more) (hp : p ∉ ports) (ha : a = .portRead p ∨ ∃ b, a = .portWrite p b) :
    step s = .refused (.notEnabled (.act a)) := by
  rw [step_of_act live hd]
  obtain rfl | ⟨b, rfl⟩ := ha
  · rw [clientAct_portRead (s := { s with sched := more }) hf, if_neg hp]
  · rw [clientAct_portWrite (s := { s with sched := more }) hf, if_neg hp]

/-- A client that only ever changes its own state, which the model does not hold, runs for ever (R104, R159; assumption
logs 16 and 30). -/
theorem run_of_own_cycle {s : State} {k : Line} {h : Word} {ports : List PortNum} {rest : List Frame} (live : s.Live)
    (hf : s.frames = .client k h (.free ports) :: rest) (hc : s.cycle = [.act .own]) (n : Nat) :
    core.run n { s with sched := [] } = .next { s with sched := [] } := by
  have loops : step { s with sched := [] } = .next { s with sched := [] } := by
    have hd : State.due { s with sched := [] } = [.act .own] := hc
    rw [step_of_act (s := { s with sched := [] }) live hd, clientAct_own (s := { s with sched := [] }) hf]
  induction n with
  | zero => rfl
  | succ n ih => exact (core_run_succ n loops).trans ih

/-- Settles O49, choice by choice. -/
theorem clientStepsTakeTheirEffect : Obligations.ClientStepsTakeTheirEffect := by
  unfold Obligations.ClientStepsTakeTheirEffect
  intro s k h ports rest a more live hf hd
  refine ⟨fun x ha => ?print, fun ha => ?own, fun p b bs ha hp hin => ?queued, fun p ha hp hin => ?free,
    fun p b ha hp hoff => ?write, fun p hp ha => step_of_foreign_port live hf hd hp ha, fun ha hm hc n => ?loop⟩
  case print =>
    subst ha
    rw [step_of_act live hd, clientAct_print (s := { s with sched := more }) hf]
    rfl
  case own =>
    subst ha
    rw [step_of_act live hd, clientAct_own (s := { s with sched := more }) hf]
  case queued =>
    subst ha
    rw [step_of_portRead live hf hd hp, State.portRead_of_queued (s := { s with sched := more }) hin]
  case free =>
    subst ha
    rw [step_of_portRead live hf hd hp, State.portRead_of_empty (s := { s with sched := more }) hin]
  case write =>
    subst ha
    exact step_of_portWrite_off_pic live hf hd hp hoff
  case loop =>
    subst ha hm
    have first : step s = .next { s with sched := [] } := by
      rw [step_of_act live hd, clientAct_own (s := { s with sched := [] }) hf]
    exact (core_run_succ n first).trans (run_of_own_cycle live hf hc n)

/-- What of the block a client's own step leaves: everything but the history, the frames, the tick counter, the devices'
bytes and the schedule, and the PICs where only the block has their ports (R111). -/
structure State.SameBlock (s t : State) : Prop where
  mem : t.mem = s.mem
  gw : t.gw = s.gw
  idtr : t.idtr = s.idtr
  loaded : t.loaded = s.loaded
  remapped : t.remapped = s.remapped
  running : t.running = s.running
  intFlag : t.intFlag = s.intFlag
  reg : t.reg = s.reg
  depth : t.depth = s.depth
  ifsave : t.ifsave = s.ifsave
  fault : t.fault = s.fault
  halted : t.halted = s.halted
  pics : s.OffPic → t.picP = s.picP ∧ t.picS = s.picS

theorem State.sameBlock_clientRun (s : State) (k : Line) (h : Word) (g : ClientStage) :
    s.SameBlock (s.clientRun k h g) := by
  cases g <;> exact ⟨rfl, rfl, rfl, rfl, rfl, rfl, rfl, rfl, rfl, rfl, rfl, rfl, fun _ => ⟨rfl, rfl⟩⟩

/-- A write by a client: where only the block has the PIC ports, the port is no PIC's (R38, R111). -/
theorem State.sameBlock_portWrite {s : State} {k : Line} {h : Word} {ports : List PortNum} {rest : List Frame}
    {p : PortNum} (hf : s.frames = .client k h (.free ports) :: rest) (hp : p ∈ ports) (b : Byte) :
    s.SameBlock (s.portWrite p b) where
  mem := rfl
  gw := rfl
  idtr := rfl
  loaded := rfl
  remapped := rfl
  running := rfl
  intFlag := rfl
  reg := rfl
  depth := rfl
  ifsave := rfl
  fault := rfl
  halted := rfl
  pics hoff := by
    have hport : isPicPort p = false := hoff.2.2 (.client k h (.free ports)) (hf ▸ List.mem_cons_self) p hp
    rw [State.portWrite_of_off_pic hport]
    exact ⟨rfl, rfl⟩

/-- The history and the devices' bytes are no part of the block. -/
theorem State.sameBlock_of_devices (s : State) (es : List Event) (bytes : List Byte) (n : Nat) :
    s.SameBlock { s with hist := es, portIn := bytes, draws := n } :=
  ⟨rfl, rfl, rfl, rfl, rfl, rfl, rfl, rfl, rfl, rfl, rfl, rfl, fun _ => ⟨rfl, rfl⟩⟩

theorem sameBlock_of_clientAct {s t : State} {a : ClientAct} {c : Choice} (ha : ∀ cw, a ≠ .host cw)
    (h : clientAct a s c = .next t) : s.SameBlock t := by
  obtain ⟨k, x, ports, rest, hf⟩ := free_of_clientAct h
  cases a with
  | portRead p =>
    rw [clientAct_portRead hf] at h
    split_ifs at h
    cases h
    exact s.sameBlock_of_devices _ _ _
  | portWrite p b =>
    rw [clientAct_portWrite hf] at h
    split_ifs at h with hp
    cases h
    exact State.sameBlock_portWrite hf hp b
  | print x =>
    rw [clientAct_print hf] at h
    cases h
    exact s.sameBlock_of_devices _ _ _
  | host cw => exact absurd rfl (ha cw)
  | own =>
    rw [clientAct_own hf] at h
    cases h
    exact s.sameBlock_of_devices _ _ _

/-- Settles O50: a client runs at its stage, or takes a chosen step that is no host command. -/
theorem clientStepsLeaveTheBlockAlone : Obligations.ClientStepsLeaveTheBlockAlone := by
  unfold Obligations.ClientStepsLeaveTheBlockAlone
  intro s t k h stage rest hf hnext st
  have live := live_of_step st
  have same : s.popped.SameBlock t := by
    obtain next | ⟨a, more, hd, ha⟩ := hnext
    · rw [step_of_client live next hf] at st
      cases st
      exact s.popped.sameBlock_clientRun k h stage
    · rw [step_of_act live hd, ← State.popped_due hd] at st
      exact sameBlock_of_clientAct ha st
  exact ⟨same.mem, same.gw, same.idtr, same.loaded, same.remapped, same.running, same.intFlag, same.reg, same.depth,
    same.ifsave, same.fault, same.halted, same.pics⟩

end Sys2Proof.Machine
end

section
/-! Round trips: a delivery, the DISPATCH that opens no client, and the return, run without interruption
(spec/60_exceptions.md R134, R136; spec/41_dispatcher.md R86, R90). -/

namespace Sys2Proof.Machine

/-- From a trampoline that is about to call DISPATCH: where the operation adds events and works on the chips only, two
steps of the software lead through it and back (R86, R136; assumption log 6). -/
theorem run_dispatch_and_return {s : State} {cpu : CpuRegs} {snap : Snapshot} {rest : List Frame} {b : Bool}
    {bs : List Bool} {more : List Choice} {es : List Event} {p q : Pic} (live : s.Live)
    (hs : s.sched = .run :: .run :: more) (hf : s.frames = .tramp cpu (.issue snap) :: rest) (hi : s.ifsave = b :: bs)
    (hx : exec (decodeIntNo snap.intNo)
        { s with sched := .run :: more, frames := .tramp cpu (.called snap) :: rest } =
      .next
        { s with
          sched := .run :: more, frames := .tramp cpu (.called snap) :: rest, hist := s.hist ++ es, picP := p
          picS := q }) :
    core.run 2 s =
      .next
        { s with
          sched := more, intFlag := b, ifsave := bs, depth := s.depth - 1, hist := s.hist ++ es ++ [.iret], picP := p
          picS := q, frames := rest } := by
  have called : step s = .next
      { s with
        sched := .run :: more, frames := .tramp cpu .ret :: rest, hist := s.hist ++ es, picP := p, picS := q } := by
    rw [step_of_due live (State.due_cons hs), chosenStep,
      softwareStep_of_issue (s := { s with sched := .run :: more }) hf, hx, dispatchDone]
    simp only [live.2.1]
    rfl
  exact (core_run_succ 1 called).trans (core_run_succ 0 (trapReturnRestoresIf _ cpu rest b bs live rfl rfl hi))

/-- The number a trampoline pushes keeps its value in the snapshot (R133). -/
theorem toNat_intNo (w : VectorNo) : (w.setWidth 32).toNat = w.toNat := by
  rw [BitVec.toNat_setWidth]
  have := w.isLt
  omega

/-- Under Continue the report is all that DISPATCH.EXC does (R84, R86). -/
theorem exec_dispatchExc_of_continue {s : State} (hh : s.halted = false) (hpolicy : s.cfg.excPolicy = .goOn)
    (n : Word) : exec (.dispatchExc n) s = .next { s with hist := s.hist ++ [.sp (reportText s.cfg n)] } := by
  have runs : decide (s.cfg.excPolicy = .halt) = s.halted := by rw [hpolicy, hh]; rfl
  rw [exec_dispatchExc_of_not_halted hh, runs]

/-- The three steps of an exception under Continue, from the schedule they leave (R84, R131, R136). -/
theorem run_exception {s : State} {v : BitVec 5} {e : Option Word} {cpu : CpuRegs} {w : VectorNo} {a : Word}
    {more : List Choice} (live : s.Live) (hpolicy : s.cfg.excPolicy = .goOn)
    (hg : s.gateFetch (v.setWidth 8) = .ok (a, w)) (hw : w.toNat ≤ 31)
    (hd : s.due = .exc v e cpu :: .run :: .run :: more) :
    core.run 3 s =
      .next
        { s with
          sched := more
          hist := s.hist ++ [.dlv (v.setWidth 8) w, .sp (reportText s.cfg (w.setWidth 32)), .iret] } := by
  have delivered : step s = .next ({ s with sched := .run :: .run :: more }.trapEnter (v.setWidth 8) w e cpu) := by
    rw [step_of_exc live hd, State.deliver_of_ok (s := { s with sched := .run :: .run :: more }) hg]
  have path : decodeIntNo (w.setWidth 32) = .dispatchExc (w.setWidth 32) :=
    decodeIntNo_of_exception ((toNat_intNo w).trans_le hw)
  have reported := exec_dispatchExc_of_continue
    (s := { s.trapEnter (v.setWidth 8) w e cpu with
      sched := .run :: more, frames := .tramp cpu (.called (snapshotOf w e cpu)) :: s.frames })
    live.2.2 hpolicy (w.setWidth 32)
  rw [← path] at reported
  have events : s.hist ++ [Event.dlv (v.setWidth 8) w] ++ [Event.sp (reportText s.cfg (w.setWidth 32))] ++
        [Event.iret] =
      s.hist ++ [Event.dlv (v.setWidth 8) w, Event.sp (reportText s.cfg (w.setWidth 32)), Event.iret] := by
    simp only [List.append_assoc, List.cons_append, List.nil_append]
  rw [← events]
  refine Eq.trans (core_run_succ 2 delivered) ?_
  exact Eq.trans (run_dispatch_and_return live rfl rfl rfl reported) rfl

/-- Settles O41: three steps leave the schedule's rest, and where the schedule repeats them they are repeated, by
induction on the number of rounds (assumption log 30). -/
theorem exceptionRoundTripOnlyAddsHistory : Obligations.ExceptionRoundTripOnlyAddsHistory := by
  unfold Obligations.ExceptionRoundTripOnlyAddsHistory
  intro s v e cpu w live hpolicy ⟨a, hg⟩ hw
  refine ⟨fun more hd => run_exception live hpolicy hg hw hd, fun hs hc n => ?_⟩
  generalize hround : [Event.dlv (v.setWidth 8) w, .sp (reportText s.cfg (w.setWidth 32)), .iret] = round
  induction n with
  | zero => simp; rfl
  | succ n ih =>
    have again := run_exception (s := { s with hist := s.hist ++ (List.replicate n round).flatten }) (more := []) live
      hpolicy hg hw ((State.due_nil hs).trans hc)
    refine (State.reaches_add (k := 3) ih).mpr (Eq.trans again ?_)
    rw [hround, List.append_assoc, List.replicate_succ', List.flatten_append, ← hs]
    simp

/-- Nothing is in service once the one bit an acknowledge set there is acknowledged by an EOI (R147, R149). -/
theorem isr_eoi_of_one {isr : Byte} (h : isr = 0#8) {j : Nat} (hj : j < 8) :
    (isr ||| BitVec.twoPow 8 j) &&& ((isr ||| BitVec.twoPow 8 j) - 1#8) = 0#8 := by
  have one : ∀ j < 8, (0#8 ||| BitVec.twoPow 8 j) &&& ((0#8 ||| BitVec.twoPow 8 j) - 1#8) = 0#8 := by decide
  exact h ▸ one j hj

/-- A request vector's request index is its line (R87). -/
theorem requestIndex_of_line {n : Word} {l : Line} (hn : n.toNat = 32 + l.toNat) : requestIndex n = l := by
  have hl := l.isLt
  apply BitVec.eq_of_toNat_eq
  rw [toNat_requestIndex (by omega) (by omega)]
  omega

/-- The EOI sequence after the acknowledge of an offered line leaves nothing in service on the chips the line goes
through (R98, R147, R149). -/
theorem State.eoi_ackLine {s : State} {l : Line} (ho : s.offersLine l = true) :
    (s.ackLine l).picP.eoi =
        (if l.toNat < 8 then { s.picP with irr := s.picP.irr &&& ~~~(BitVec.twoPow 8 l.toNat), isr := 0#8 }
        else { s.picP with isr := 0#8 }) ∧
      (8 ≤ l.toNat → (s.ackLine l).picS.eoi =
        { s.picS with irr := s.picS.irr &&& ~~~(BitVec.twoPow 8 (l.toNat - 8)), isr := 0#8 }) ∧
      (l.toNat < 8 → (s.ackLine l).picS = s.picS) := by
  have hl := l.isLt
  rw [State.ackLine_spec]
  obtain ⟨hlow, -, -, -, -, hisr⟩ | ⟨hhigh, -, -, -, hisrS, -, hisrP⟩ := (s.offersLine_iff l).mp ho
  · simp only [hlow, if_true, Pic.eoi, isr_eoi_of_one hisr hlow, true_and, implies_true, and_true]
    exact fun h => absurd hlow (Nat.not_lt.mpr h)
  · have hnot : ¬l.toNat < 8 := Nat.not_lt.mpr hhigh
    simp only [hnot, if_false, Pic.eoi, isr_eoi_of_one hisrP (show 2 < 8 by decide),
      isr_eoi_of_one hisrS (show l.toNat - 8 < 8 by omega), implies_true, false_implies, and_self]

/-- A request vector of an empty slot: its EOI sequence, on the chips its line goes through (R82, R90, R97). -/
theorem exec_request_of_empty {s : State} {n : Word} {l : Line} (hn : n.toNat = 32 + l.toNat)
    (he : s.lookup l = 0#32) :
    exec (decodeIntNo n) s =
      .next
        { s with
          hist := s.hist ++ ((if l.toNat < 8 then [] else [.pw 0xA0#16 0x20#8]) ++ [.pw 0x20#16 0x20#8])
          picP := s.picP.eoi
          picS := if l.toNat < 8 then s.picS else s.picS.eoi } := by
  have hl := l.isLt
  have hk : requestIndex n = l := requestIndex_of_line hn
  have acked : s.requestPath n = s.eoi l := hk ▸ State.requestPath_of_empty (hk ▸ he)
  by_cases hlow : l.toNat < 8
  · rw [decodeIntNo_of_primary (by omega) (by omega), exec_dispatchReqPrimary, acked, s.eoi_of_primary (by omega),
      if_pos hlow, if_pos hlow, List.nil_append]
  · rw [decodeIntNo_of_secondary (by omega) (by omega), exec_dispatchReqSecondary, acked,
      s.eoi_of_secondary (by omega), if_neg hlow, if_neg hlow, List.cons_append, List.nil_append]

/-- The acknowledge does not look at the schedule. -/
theorem State.ackLine_sched (s : State) (l : Line) (cs : List Choice) :
    State.ackLine { s with sched := cs } l = { s.ackLine l with sched := cs } := by
  unfold State.ackLine
  split <;> rfl

/-- Settles O42: the acknowledge and the EOI sequence cancel in the in-service bits of the chips the line goes
through. -/
theorem requestRoundTripLeavesNothingInService : Obligations.RequestRoundTripLeavesNothingInService := by
  unfold Obligations.RequestRoundTripLeavesNothingInService
  intro s l cpu more a live hd hi ho hg he
  have hl := l.isLt
  generalize hw : (BitVec.ofNat 8 (32 + l.toNat) : VectorNo) = w at hg ⊢
  have hn : (w.setWidth 32).toNat = 32 + l.toNat := by
    rw [toNat_intNo, ← hw, BitVec.toNat_ofNat]
    omega
  obtain ⟨primary, secondary, untouched⟩ := State.eoi_ackLine ho
  have delivered : step s =
      .next (({ s with sched := .run :: .run :: more }.ackLine l).trapEnter (s.lineVector l) w none cpu) := by
    have fetched : (State.ackLine { s with sched := .run :: .run :: more } l).gateFetch (s.lineVector l) = .ok (a, w) :=
      (State.gateFetch_ackLine _ l _).trans hg
    rw [step_of_req_allowed live hd hi ho, State.deliver_of_ok fetched]
  rw [State.ackLine_sched, s.ackLine_only_pics l] at delivered
  have acked := exec_request_of_empty
    (s := { s with
      sched := .run :: more, intFlag := false, ifsave := s.intFlag :: s.ifsave, depth := s.depth + 1
      hist := s.hist ++ [Event.dlv (s.lineVector l) w]
      frames := .tramp cpu (.called (snapshotOf w none cpu)) :: s.frames
      picP := (s.ackLine l).picP, picS := (s.ackLine l).picS })
    hn he
  have chipS : (if l.toNat < 8 then (s.ackLine l).picS else (s.ackLine l).picS.eoi) =
      if l.toNat < 8 then s.picS
      else { s.picS with irr := s.picS.irr &&& ~~~(BitVec.twoPow 8 (l.toNat - 8)), isr := 0#8 } := by
    split
    · next h => exact untouched h
    · next h => exact secondary (Nat.not_lt.mp h)
  have events : s.hist ++ [Event.dlv (s.lineVector l) w] ++
        ((if l.toNat < 8 then [] else [Event.pw 0xA0#16 0x20#8]) ++ [Event.pw 0x20#16 0x20#8]) ++ [Event.iret] =
      s.hist ++ ([Event.dlv (s.lineVector l) w] ++ (if l.toNat < 8 then [] else [Event.pw 0xA0#16 0x20#8]) ++
        [Event.pw 0x20#16 0x20#8, Event.iret]) := by
    simp only [List.append_assoc, List.cons_append, List.nil_append]
  rw [← primary, ← chipS, ← events]
  refine Eq.trans (core_run_succ 2 delivered) ?_
  exact Eq.trans (run_dispatch_and_return live rfl rfl rfl acked) rfl

end Sys2Proof.Machine
end

section
/-! Fair runs: which schedules are fair, how long enabled software waits, and the end of the software's work
(spec/70_reset_and_hazards.md R167; assumption log 31). -/

namespace Sys2Proof.Machine

/-- A run of `n + k` steps stands somewhere after `n` of them. -/
theorem State.reaches_split {s u : State} {n k : Nat} (h : s.Reaches (n + k) u) :
    ∃ t, s.Reaches n t ∧ t.Reaches k u := by
  induction n generalizing s with
  | zero => exact ⟨s, State.reaches_zero.mpr rfl, by rwa [Nat.zero_add] at h⟩
  | succ n ih =>
    rw [show n + 1 + k = n + k + 1 by omega, State.reaches_succ] at h
    obtain ⟨v, e, hv⟩ := h
    obtain ⟨t, ht, hu⟩ := ih hv
    exact ⟨t, State.reaches_succ.mpr ⟨v, e, ht⟩, hu⟩

/-- One step is a run of one step. -/
theorem State.reaches_one {s t : State} : s.Reaches 1 t ↔ step s = .next t := by
  rw [State.reaches_succ]
  simp only [State.reaches_zero, exists_eq_right]

/-- No run changes the repeating part of the schedule. -/
theorem State.cycle_of_reaches {s t : State} {n : Nat} (h : s.Reaches n t) : t.cycle = s.cycle := by
  induction n generalizing s with
  | zero => rw [State.reaches_zero.mp h]
  | succ n ih =>
    obtain ⟨u, e, hu⟩ := State.reaches_succ.mp h
    exact (ih hu).trans (step_schedule e).2

/-- A run uses up the schedule's list entry by entry. -/
theorem State.sched_used_up {s t : State} (h : s.Reaches s.sched.length t) : t.sched = [] := by
  generalize hl : s.sched = cs at h
  induction cs generalizing s with
  | nil => rwa [← State.reaches_zero.mp h]
  | cons c cs ih =>
    obtain ⟨u, e, hu⟩ := State.reaches_succ.mp h
    have hsched : u.sched = cs := by rw [(step_schedule e).1, State.due_cons hl, List.tail_cons]
    exact ih hsched hu

/-- An entry that is due after others comes to be the oldest. -/
theorem State.due_of_reaches {s t : State} {pre post : List Choice} {c : Choice} (hd : s.due = pre ++ c :: post)
    (h : s.Reaches pre.length t) : t.due = c :: post := by
  induction pre generalizing s with
  | nil => rwa [← State.reaches_zero.mp h]
  | cons p pre ih =>
    obtain ⟨u, e, hu⟩ := State.reaches_succ.mp h
    have hsched : u.sched = pre ++ c :: post := by rw [(step_schedule e).1, hd, List.cons_append, List.tail_cons]
    refine ih ?_ hu
    cases pre with
    | nil => exact State.due_cons hsched
    | cons q pre => exact State.due_cons hsched

/-- Where nothing is due the software moves. -/
theorem State.headD_due_of_nil {s : State} (h : s.due = []) : (s.due.headD .run).isEnvironment = false := by rw [h]; rfl

/-- A schedule that ends, or whose repeating part has a step of the software, comes to one from every point of the
run. -/
theorem fair_of_cycle {s : State} (h : s.cycle = [] ∨ ∃ c ∈ s.cycle, c.isEnvironment = false) : s.Fair := by
  intro n t ht _
  have hcycle := State.cycle_of_reaches ht
  obtain hnil | ⟨c, hc, henv⟩ := h
  · refine ⟨n + t.sched.length, Nat.le_add_right _ _, fun u hu => .inr (State.headD_due_of_nil ?_)⟩
    have hu' := (State.reaches_add ht).mp hu
    rw [State.due_nil (State.sched_used_up hu'), State.cycle_of_reaches hu', hcycle, hnil]
  · obtain ⟨pre, post, hsplit⟩ := List.append_of_mem hc
    refine ⟨n + (t.sched.length + pre.length), Nat.le_add_right _ _, fun u hu => .inr ?_⟩
    obtain ⟨v, hv, hu'⟩ := State.reaches_split ((State.reaches_add ht).mp hu)
    have hdue : v.due = pre ++ c :: post := by
      rw [State.due_nil (State.sched_used_up hv), State.cycle_of_reaches hv, hcycle, hsplit]
    rw [State.due_of_reaches hdue hu']
    exact henv

/-- Where the repeating part is one line raise, the run is raises for ever, and the software stands still. -/
theorem reaches_of_raise_cycle {s : State} {l : Line} (live : s.Live) (hl : l ≠ 2#4) (hs : s.sched = [])
    (hc : s.cycle = [.raise l]) (m : Nat) : ∃ u, s.Reaches m u ∧ u.frames = s.frames ∧ u.due = [.raise l] := by
  induction m generalizing s with
  | zero => exact ⟨s, State.reaches_zero.mpr rfl, rfl, (State.due_nil hs).trans hc⟩
  | succ m ih =>
    have st := step_of_raise live ((State.due_nil hs).trans hc) hl
    rw [State.raiseLine_only_pics] at st
    obtain ⟨u, hu, hframes, hdue⟩ := ih (s := { s with
      sched := [], picP := (State.raiseLine { s with sched := [] } l).picP
      picS := (State.raiseLine { s with sched := [] } l).picS }) live rfl hc
    exact ⟨u, State.reaches_succ.mpr ⟨_, st, hu⟩, hframes, hdue⟩

/-- Line raises for ever beside enabled software are not fair. -/
theorem not_fair_of_raise_cycle {s : State} {l : Line} (live : s.Live) (hdone : ¬s.SoftwareDone) (hl : l ≠ 2#4)
    (hs : s.sched = []) (hc : s.cycle = [.raise l]) : ¬s.Fair := by
  intro fair
  obtain ⟨m, -, hm⟩ := fair 0 s (State.reaches_zero.mpr rfl) hdone
  obtain ⟨u, hu, hframes, hdue⟩ := reaches_of_raise_cycle live hl hs hc m
  obtain h | h := hm u hu
  · exact h hframes
  · rw [hdue] at h
    cases h

/-- A step that a raise entry names touches the schedule and the chips alone (R148). -/
theorem step_of_raise_only_pics {s t : State} {l : Line} (hd : s.due.head? = some (.raise l)) (st : step s = .next t) :
    t = { s with sched := t.sched, picP := t.picP, picS := t.picS } := by
  obtain ⟨cs, hd⟩ := List.head?_eq_some_iff.mp hd
  rw [step_of_due (live_of_step st) hd, chosenStep] at st
  split_ifs at st
  cases st
  rw [State.raiseLine_only_pics]

/-- The software of `t` stands where that of `s` stands. -/
def State.SameSoftware (s t : State) : Prop :=
  t.frames = s.frames ∧ t.hostIndex = s.hostIndex ∧ t.hostPending = s.hostPending

/-- The wait for the environment's line raises is over: another step is due, or the run has ended. -/
def State.WaitOver (u : State) : Prop := (∀ l, u.due.head? ≠ some (.raise l)) ∨ ∀ v, step u ≠ .next v

/-- For any number of steps: the wait ends within them, or they are all line raises, which leave the software. -/
theorem waits_or_over (t : State) (k : Nat) :
    (∃ j u, t.Reaches j u ∧ t.SameSoftware u ∧ u.WaitOver) ∨ ∃ u, t.Reaches k u ∧ t.SameSoftware u := by
  induction k with
  | zero => exact .inr ⟨t, State.reaches_zero.mpr rfl, rfl, rfl, rfl⟩
  | succ k ih =>
    obtain h | ⟨u, hu, hframes, hindex, hpending⟩ := ih
    · exact .inl h
    · by_cases hover : u.WaitOver
      · exact .inl ⟨k, u, hu, ⟨hframes, hindex, hpending⟩, hover⟩
      · simp only [State.WaitOver, not_or, not_forall, not_not] at hover
        obtain ⟨⟨l, hd⟩, v, st⟩ := hover
        have hv := step_of_raise_only_pics hd st
        refine .inr ⟨v, (State.reaches_add hu).mpr (State.reaches_one.mpr st), ?_⟩
        rw [hv]
        exact ⟨hframes, hindex, hpending⟩

/-- In a fair run enabled software waits for finitely many line raises only. -/
theorem wait_ends_of_fair {s t : State} {n : Nat} (fair : s.Fair) (ht : s.Reaches n t) (hdone : ¬t.SoftwareDone) :
    ∃ j u, t.Reaches j u ∧ t.SameSoftware u ∧ u.WaitOver := by
  obtain ⟨m, hnm, hm⟩ := fair n t ht hdone
  obtain h | ⟨u, hu, hsame⟩ := waits_or_over t (m - n)
  · exact h
  · have hum : s.Reaches m u := by
      rw [show m = n + (m - n) by omega]
      exact (State.reaches_add ht).mpr hu
    refine ⟨m - n, u, hu, hsame, .inl fun l hd => ?_⟩
    obtain h | h := hm u hum
    · exact h hsame.1
    · obtain ⟨cs, hd⟩ := List.head?_eq_some_iff.mp hd
      rw [hd] at h
      cases h

/-- An upper bound on the steps a frame has still to take, the client that its DISPATCH may open among them. -/
def Frame.work : Frame → Nat
  | .tramp _ (.issue _) => 5
  | .tramp _ (.called _) => 2
  | .tramp _ .ret => 1
  | .client _ _ .timerStart => 2
  | .client _ _ .kbdStart => 2
  | .client _ _ (.free _) => 1
  | .client _ _ .leave => 1

/-- The same for all open frames. -/
def framesWork (fs : List Frame) : Nat := (fs.map Frame.work).sum

/-- The same for the host: an item is a step and at most three port writes after it, or what of them is still due. -/
def hostWork (items index pending : Nat) : Nat :=
  if pending = 0 then 4 * (items - index) else 4 * (items - index - 1) + pending

/-- The same for the whole software. -/
def State.work (s : State) : Nat := framesWork s.frames + hostWork s.prog.length s.hostIndex s.hostPending.length

@[simp] theorem framesWork_cons (f : Frame) (fs : List Frame) : framesWork (f :: fs) = f.work + framesWork fs := rfl

theorem framesWork_endDispatch_le (fs : List Frame) : framesWork (endDispatch fs) ≤ framesWork fs := by
  rcases fs with - | ⟨⟨_, - | - | -⟩ | -, _⟩ <;> simp [endDispatch, Frame.work]

/-- Every client that has been opened has at most two steps to take. -/
theorem Frame.work_client (k : Line) (h : Word) (g : ClientStage) : (Frame.client k h g).work ≤ 2 := by
  cases g <;> simp [Frame.work]

/-- An operation is no move of the host's program (R17). -/
theorem ExecCase.host {s t : State} (m : ExecCase s t) :
    t.prog = s.prog ∧ t.hostIndex = s.hostIndex ∧ t.hostPending = s.hostPending := by
  cases m with
  | acked k => rw [State.eoi_eq]; exact ⟨rfl, rfl, rfl⟩
  | invoked k x n =>
    rw [State.eoi_eq]
    obtain ⟨_, e⟩ | ⟨_, _, e⟩ := State.invoke_cases _ k x n <;> rw [e] <;> exact ⟨rfl, rfl, rfl⟩
  | _ => exact ⟨rfl, rfl, rfl⟩

/-- With no port write due each item of the host left counts four. -/
theorem State.work_of_no_pending {s : State} (hp : s.hostPending = []) :
    s.work = framesWork s.frames + 4 * (s.prog.length - s.hostIndex) := by
  rw [State.work, hp]
  rfl

/-- While port writes are due they count beside the items after theirs. -/
theorem State.work_of_pending {s : State} {w : PortNum × Byte} {ws : List (PortNum × Byte)}
    (hp : s.hostPending = w :: ws) :
    s.work = framesWork s.frames + (4 * (s.prog.length - s.hostIndex - 1) + (ws.length + 1)) := by
  rw [State.work, hp]
  rfl

/-- A step above the host's program takes work off where it takes work off the frames. -/
theorem State.work_lt_of_frames {s t : State}
    (hhost : t.prog = s.prog ∧ t.hostIndex = s.hostIndex ∧ t.hostPending = s.hostPending)
    (hframes : framesWork t.frames < framesWork s.frames) : t.work < s.work := by
  obtain ⟨hprog, hindex, hpending⟩ := hhost
  rw [State.work, State.work, hprog, hindex, hpending]
  omega

/-- The host's advance with no port write due and no fault moves the index past its item (R17). -/
theorem State.work_hostAdvance {u : State} (hp : u.hostPending = []) (hf : u.hostAdvance.fault = none) :
    u.hostAdvance.work = framesWork u.frames + 4 * (u.prog.length - (u.hostIndex + 1)) := by
  rw [State.hostAdvance_of_no_pending hp] at hf ⊢
  split_ifs at hf ⊢ with h
  · exact State.work_of_no_pending (s := { u with hostIndex := u.hostIndex + 1 }) hp
  · exact absurd hf h

/-- The host's item takes work off once it raises no fault: the index advances, or three port writes are due
(R17, R112). -/
theorem State.work_hostAdvance_of_item {s u : State} (hp : s.hostPending = []) (hi : s.hostIndex < s.prog.length)
    (hframes : u.frames = s.frames) (hprog : u.prog = s.prog) (hindex : u.hostIndex = s.hostIndex)
    (hpending : u.hostPending.length ≤ 3) (hf : u.hostAdvance.fault = none) : u.hostAdvance.work < s.work := by
  rw [State.work_of_no_pending hp]
  cases hu : u.hostPending with
  | nil =>
    rw [State.work_hostAdvance hu hf, hframes, hprog, hindex]
    omega
  | cons w ws =>
    rw [hu, List.length_cons] at hpending
    rw [State.hostAdvance_of_pending hu, State.work_of_pending hu, hframes, hprog, hindex]
    omega

/-- A port write that the host has due takes one off (R112). -/
theorem State.work_hostAdvance_of_pending {s u : State} {w : PortNum × Byte} {ws : List (PortNum × Byte)}
    (hp : s.hostPending = w :: ws) (hframes : u.frames = s.frames) (hprog : u.prog = s.prog)
    (hindex : u.hostIndex = s.hostIndex) (hpending : u.hostPending = ws) (hf : u.hostAdvance.fault = none) :
    u.hostAdvance.work < s.work := by
  rw [State.work_of_pending hp]
  cases ws with
  | nil =>
    rw [State.work_hostAdvance hpending hf, hframes, hprog, hindex]
    omega
  | cons w' ws =>
    rw [State.hostAdvance_of_pending hpending, State.work_of_pending hpending, hframes, hprog, hindex, List.length_cons]
    omega

/-- TIMER_INIT leaves the host at its item, with at most three port writes due (R112). -/
theorem State.host_timerInit {s : State} (hp : s.hostPending = []) (f : Word) :
    (s.timerInit f).prog = s.prog ∧ (s.timerInit f).hostIndex = s.hostIndex ∧
      (s.timerInit f).hostPending.length ≤ 3 := by
  obtain e | e | ⟨_, _, e⟩ | ⟨_, _, e⟩ := s.timerInit_cases f <;> rw [e] <;> refine ⟨rfl, rfl, ?_⟩
  case inr.inr.inl => exact Nat.le_refl 3
  all_goals exact (congrArg List.length hp).trans_le (Nat.zero_le 3)

/-- KBD_INIT leaves the host at its item, with no port write due (R117). -/
theorem State.host_kbdInit {s : State} (hp : s.hostPending = []) :
    s.kbdInit.prog = s.prog ∧ s.kbdInit.hostIndex = s.hostIndex ∧ s.kbdInit.hostPending.length ≤ 3 := by
  have none_due : s.hostPending.length ≤ 3 := (congrArg List.length hp).trans_le (Nat.zero_le 3)
  obtain e | ⟨_, e⟩ := s.kbdInit_cases <;> rw [e] <;> exact ⟨rfl, rfl, none_due⟩

/-- A step of the host that raises no fault takes work off. -/
theorem hostStep_work {s t : State} (st : hostStep s = .next t) (hf : t.fault = none) :
    t.work < s.work := by
  cases hp : s.hostPending with
  | cons w ws =>
    rw [hostStep_of_pending hp] at st
    cases st
    exact State.work_hostAdvance_of_pending hp rfl rfl rfl rfl hf
  | nil =>
    by_cases hi : s.hostIndex < s.prog.length
    · rw [hostStep_of_item hp (List.getElem?_eq_getElem hi)] at st
      cases hitem : s.prog[s.hostIndex] with
      | word cw =>
        rw [hitem, runItem] at st
        cases hr : runWord .host cw s with
        | next u =>
          rw [hr] at st
          cases st
          obtain ⟨hprog, hindex, hpending⟩ := (runWord_cases hr).host
          exact State.work_hostAdvance_of_item hp hi (runWord_host_frames hr) hprog hindex (by simp [hpending, hp]) hf
        | fault r => rw [hr] at st; cases st
        | refused r => rw [hr] at st; cases st
      | timerInit f =>
        rw [hitem] at st
        cases st
        obtain ⟨hprog, hindex, hpending⟩ := State.host_timerInit hp f
        exact State.work_hostAdvance_of_item hp hi (s.frames_timerInit f) hprog hindex hpending hf
      | kbdInit =>
        rw [hitem] at st
        cases st
        obtain ⟨hprog, hindex, hpending⟩ := State.host_kbdInit hp
        exact State.work_hostAdvance_of_item hp hi s.frames_kbdInit hprog hindex hpending hf
      | print x =>
        rw [hitem] at st
        cases st
        exact State.work_hostAdvance_of_item hp hi rfl rfl rfl (by simp [hp]) hf
    · rw [hostStep_of_end hp (Nat.not_lt.mp hi)] at st
      cases st

/-- A DISPATCH that raises no fault has returned, or stands under a client with at most two steps. -/
theorem framesWork_after_dispatch {fs rest : List Frame} {saved : CpuRegs} {snap : Snapshot}
    (hf : fs = .tramp saved (.called snap) :: rest ∨
      ∃ k x g, fs = .client k x g :: .tramp saved (.called snap) :: rest) :
    framesWork (endDispatch fs) < framesWork (.tramp saved (.issue snap) :: rest) := by
  obtain rfl | ⟨k, x, g, rfl⟩ := hf
  · simp [endDispatch, Frame.work]
  · have := Frame.work_client k x g
    simp only [endDispatch, framesWork_cons, Frame.work] at this ⊢
    omega

theorem clientRun_work {s : State} {k : Line} {h : Word} {g : ClientStage} {rest : List Frame}
    (hf : s.frames = .client k h g :: rest) : framesWork (s.clientRun k h g).frames < framesWork s.frames := by
  have hend := framesWork_endDispatch_le rest
  cases g with
  | timerStart =>
    rw [State.clientRun, State.frames_setStage (s := s.timerTick) hf, hf]
    simp [Frame.work]
  | kbdStart =>
    rw [State.clientRun, State.kbdRead, State.frames_setStage (s := s.portRead _) hf, hf]
    split <;> simp [Frame.work]
  | free ports =>
    rw [State.clientRun, State.clientReturn_frames, hf, List.tail_cons, framesWork_cons, Frame.work]
    omega
  | leave =>
    rw [State.clientRun, State.clientReturn_frames, hf, List.tail_cons, framesWork_cons, Frame.work]
    omega

/-- A step of the software that raises no fault takes work off. -/
theorem softwareStep_work {s t : State} (st : softwareStep s = .next t) (hf : t.fault = none) : t.work < s.work := by
  cases hfr : s.frames with
  | nil => exact hostStep_work (softwareStep_of_host hfr ▸ st) hf
  | cons f rest =>
    cases f with
    | client k h g =>
      rw [softwareStep_of_client hfr] at st
      cases st
      exact State.work_lt_of_frames (by cases g <;> exact ⟨rfl, rfl, rfl⟩) (clientRun_work hfr)
    | tramp saved stage =>
      cases stage with
      | issue snap =>
        rw [softwareStep_of_issue hfr] at st
        obtain ⟨u, hu, rfl⟩ := dispatchDone_next st
        have hnone : u.fault = none := by
          split at hf <;> exact hf
        have m := exec_cases hu
        rw [hnone, Option.isNone_none, if_pos rfl]
        exact State.work_lt_of_frames m.host (hfr ▸ framesWork_after_dispatch m.frames)
      | called snap =>
        rw [softwareStep, hfr] at st
        cases st
        refine State.work_lt_of_frames ⟨rfl, rfl, rfl⟩ ?_
        rw [State.dispatchReturn_frames, hfr]
        simp [endDispatch, Frame.work]
      | ret =>
        rw [softwareStep_of_trampRet hfr] at st
        cases st
        refine State.work_lt_of_frames ⟨rfl, rfl, rfl⟩ ?_
        rw [State.trapReturn_frames, hfr]
        simp [Frame.work]

/-- Where the software moves and the run goes on after it, work is done. -/
theorem work_lt_of_software {s t v : State} (next : s.SoftwareNext) (st : step s = .next t) (st' : step t = .next v) :
    t.work < s.work := by
  rw [step_of_software (live_of_step st) next] at st
  exact softwareStep_work (s := s.popped) st (live_of_step st').2.1

/-- A run from a point of a fair run is fair. -/
theorem State.Fair.of_reaches {s u : State} {j : Nat} (fair : s.Fair) (hu : s.Reaches j u) : u.Fair := by
  intro n t ht hdone
  obtain ⟨m, hm, hfair⟩ := fair (j + n) t ((State.reaches_add hu).mpr ht) hdone
  refine ⟨m - j, by omega, fun v hv => hfair v ?_⟩
  rw [show m = j + (m - j) by omega]
  exact (State.reaches_add hu).mpr hv

/-- The schedule names nothing but line raises and steps of the software. -/
def State.OnlyRaises (s : State) : Prop := ∀ c ∈ s.sched ++ s.cycle, c = .run ∨ ∃ l, c = .raise l

theorem State.due_subset (s : State) : s.due ⊆ s.sched ++ s.cycle := by
  unfold State.due
  split
  · exact List.subset_append_right _ _
  · next hs => rw [hs]; exact List.subset_append_left _ _

theorem State.OnlyRaises.of_reaches {s u : State} {j : Nat} (h : s.OnlyRaises) (hu : s.Reaches j u) : u.OnlyRaises := by
  induction j generalizing s with
  | zero => rwa [← State.reaches_zero.mp hu]
  | succ j ih =>
    obtain ⟨t, st, ht⟩ := State.reaches_succ.mp hu
    obtain ⟨hsched, hcycle⟩ := step_schedule st
    refine ih (s := t) (fun c hc => h c ?_) ht
    rw [hsched, hcycle, List.mem_append] at hc
    obtain hc | hc := hc
    · exact s.due_subset (List.mem_of_mem_tail hc)
    · exact List.mem_append_right _ hc

/-- Of such a schedule the software moves next, or a line raise is due. -/
theorem State.OnlyRaises.next {s : State} (h : s.OnlyRaises) : s.SoftwareNext ∨ ∃ l, s.due.head? = some (.raise l) := by
  cases hd : s.due with
  | nil => exact .inl (by rw [State.SoftwareNext, hd]; rfl)
  | cons c cs =>
    obtain rfl | ⟨l, rfl⟩ := h c (s.due_subset (hd ▸ List.mem_cons_self))
    · exact .inl (by rw [State.SoftwareNext, hd]; rfl)
    · exact .inr ⟨l, rfl⟩

/-- While the run goes on and no work is done, every step of it is a line raise. -/
theorem still_of_no_work {s : State} (only : s.OnlyRaises) (endless : ∀ n, ∃ t, s.Reaches n t)
    (nowork : ∀ j u, s.Reaches j u → s.work ≤ u.work) {j : Nat} {u : State} (hu : s.Reaches j u) :
    u.frames = s.frames ∧ u.work = s.work ∧ ¬u.SoftwareNext := by
  have idle {i : Nat} {v : State} (hv : s.Reaches i v) (hw : v.work = s.work) : ¬v.SoftwareNext := by
    intro next
    obtain ⟨x, hx⟩ := endless (i + 2)
    obtain ⟨t, st, hx'⟩ := State.reaches_succ.mp ((State.reaches_add (k := 2) hv).mp hx)
    have less := work_lt_of_software next st (State.reaches_one.mp hx')
    have more := nowork (i + 1) t ((State.reaches_add hv).mpr (State.reaches_one.mpr st))
    omega
  induction j generalizing u with
  | zero => obtain rfl := State.reaches_zero.mp hu; exact ⟨rfl, rfl, idle hu rfl⟩
  | succ j ih =>
    obtain ⟨v, hv, hu'⟩ := State.reaches_split hu
    obtain ⟨hframes, hwork, hnext⟩ := ih hv
    obtain h | ⟨l, hd⟩ := (only.of_reaches hv).next
    · exact absurd h hnext
    · have hraise := step_of_raise_only_pics hd (State.reaches_one.mp hu')
      have hw : u.work = s.work := by rw [hraise]; exact hwork
      exact ⟨by rw [hraise]; exact hframes, hw, idle hu hw⟩

/-- With nothing scheduled but line raises and the software, a fair run brings the software to its end: by induction
on the work left, for fairness gives a step that does some. -/
theorem software_ends_of_fair {s : State} (fair : s.Fair) (only : s.OnlyRaises) :
    ∃ n, ∀ t, s.Reaches n t → t.SoftwareDone := by
  generalize hw : s.work = w
  induction w using Nat.strong_induction_on generalizing s with
  | _ w ih =>
    by_cases hdone : s.SoftwareDone
    · exact ⟨0, fun t ht => State.reaches_zero.mp ht ▸ hdone⟩
    · by_contra hnever
      simp only [not_exists, not_forall] at hnever
      have endless (n : Nat) : ∃ t, s.Reaches n t := (hnever n).imp fun _ h => h.1
      have nowork (j : Nat) (u : State) (hu : s.Reaches j u) : s.work ≤ u.work := by
        by_contra hless
        obtain ⟨n, hn⟩ := ih u.work (by omega) (fair.of_reaches hu) (only.of_reaches hu) rfl
        obtain ⟨t, ht, hnot⟩ := hnever (j + n)
        exact hnot (hn t ((State.reaches_add hu).mp ht))
      obtain ⟨m, -, hm⟩ := fair 0 s (State.reaches_zero.mpr rfl) hdone
      obtain ⟨u, hu⟩ := endless m
      obtain ⟨hframes, -, hnext⟩ := still_of_no_work only endless nowork hu
      obtain ⟨l, hd⟩ := ((only.of_reaches hu).next).resolve_left hnext
      obtain h | h := hm u hu
      · exact h hframes
      · obtain ⟨cs, hd⟩ := List.head?_eq_some_iff.mp hd
        rw [hd] at h
        cases h

/-- Settles O10, clause by clause. -/
theorem fairRunsLetTheSoftwareEnd : Obligations.FairRunsLetTheSoftwareEnd := by
  unfold Obligations.FairRunsLetTheSoftwareEnd
  refine ⟨fun s h => fair_of_cycle h, fun s l live hdone hl hs hc => not_fair_of_raise_cycle live hdone hl hs hc,
    fun s n t fair ht hdone => ?wait, fun s fair only => software_ends_of_fair fair only⟩
  case wait =>
    obtain ⟨j, u, hu, ⟨hframes, hindex, hpending⟩, hover⟩ := wait_ends_of_fair fair ht hdone
    exact ⟨n + j, u, Nat.le_add_right n j, (State.reaches_add ht).mpr hu, hframes, hindex, hpending, hover⟩

end Sys2Proof.Machine
end
